-- ==== Sys2Proof/Word.lean ====
section
/-! DEFINITION. The machine's two word widths (spec 00_scope.md R9): a byte and a 16-bit word. -/

namespace Sys2Proof

/-- A register, a timer or a memory byte: 8 bits (R9, R21). -/
abbrev Byte := BitVec 8

/-- An instruction word, and the width of the index register: 16 bits (R9, R70). -/
abbrev Word := BitVec 16

end Sys2Proof
end

