-- ==== Sys2Proof/Machine/Flags.lean ====
section
/-! DEFINITION. The flag computations: every value an instruction writes to VF as a flag (10_state.md R25,
41_alu.md R132), each computed from the operand values read before any write. -/

namespace Sys2Proof.Machine

/-- A flag as VF holds it: 1 or 0 (R25). -/
def flagByte (c : Bool) : Byte := if c then 1 else 0

/-- 8XY4: carry, from the sum that is not truncated (R138). -/
def carryFlag (a b : Byte) : Byte := flagByte (decide (255 < a.toNat + b.toNat))

/-- `a - b` does not borrow: `a >= b` (8XY5 with a = V[x], R139; 8XY7 with a = V[y], R140). -/
def noBorrowFlag (a b : Byte) : Byte := flagByte (decide (b.toNat ≤ a.toNat))

/-- 8XY6: the bit shifted out at the bottom, `s mod 2` (R142). -/
def lowBitFlag (s : Byte) : Byte := BitVec.ofNat 8 (s.toNat % 2)

/-- 8XYE: the bit shifted out at the top, `s[7]` (R143). -/
def highBitFlag (s : Byte) : Byte := BitVec.ofNat 8 (s.toNat / 128 % 2)

/-- DXYN: some XOR turned a set pixel off (R184). -/
def collisionFlag (collided : Bool) : Byte := flagByte collided

end Sys2Proof.Machine
end

