-- ==== Sys2Proof/Config.lean ====
section
/-! DEFINITION. The configuration parameters of the block (spec 00_scope.md R2, R6, R8, R11, R12) and the
model's free values. A configuration is fixed for a run; the model carries it in `State.cfg` so that a
statement about every state is a statement about every configuration (log 1). -/

namespace Sys2Proof

/-- `DRAW_EDGE`: what DXYN does with pixels beyond the right or bottom edge (R12, R182). -/
inductive DrawEdge where
  /-- Draw them at coordinates reduced mod 64 and mod 32 (the spec's default). -/
  | wrap
  /-- Drop them: no XOR and no part in the collision flag. -/
  | clip
  deriving DecidableEq, Repr

/-- The parameters of the block, each with the default the spec states. -/
structure Config where
  /-- `MEM_SIZE`, the number of bytes of memory (R6). -/
  memSize : Nat := 4096
  /-- `STACK_CAPACITY`; `none` is the source's unbounded stack (R8). -/
  stackCapacity : Option Nat := none
  /-- `Q_SHIFT_VX` (R11, R141). -/
  qShiftVx : Bool := false
  /-- `Q_MEM_INCR_I` (R11, R165). -/
  qMemIncrI : Bool := false
  /-- `Q_LOGIC_VF_RESET` (R11, R137). -/
  qLogicVfReset : Bool := false
  /-- `DRAW_EDGE` (R12). -/
  drawEdge : DrawEdge := .wrap
  deriving DecidableEq, Repr

/-- `PROG_BASE`: where the image is loaded and execution starts; fixed, not a parameter (R7). -/
def progBase : Nat := 0x200

/-- FREE VALUE: the key snapshot of the n-th Step for which the host's schedule gives no inputs
(R206, 93_implementation_defined.md U14; log 4). -/
opaque Config.freeKeys : Nat → BitVec 16

/-- FREE VALUE: the random byte of the n-th Step for which the host's schedule gives no inputs
(R145, 93_implementation_defined.md U4; log 4). -/
opaque Config.freeRnd : Nat → Byte

end Sys2Proof
end

