-- ==== Sys2Proof/Syntax.lean ====
section
/-! DEFINITION. The instructions: one constructor per row of spec/opcode_table.json (30_encoding.md R76), in
the table's order. `x` and `y` are register indexes, `nn` an 8-bit immediate, `nnn` a 12-bit address and
`n` a row count; the last two are natural numbers, whose bounds `Instr.wf` checks (log 14). -/

namespace Sys2Proof

/-- An index into V[0..15] (R71, R73). -/
abbrev Reg := Fin 16

/-- The 32 instructions of the opcode map (R76). -/
inductive Instr where
  /-- 00E0: CLS -/
  | cls
  /-- 00EE: RET -/
  | ret
  /-- 1NNN: JP NNN -/
  | jp (nnn : Nat)
  /-- 2NNN: CALL NNN -/
  | call (nnn : Nat)
  /-- 3XNN: SE VX, NN -/
  | seVxNn (x : Reg) (nn : Byte)
  /-- 4XNN: SNE VX, NN -/
  | sneVxNn (x : Reg) (nn : Byte)
  /-- 5XY0: SE VX, VY -/
  | seVxVy (x y : Reg)
  /-- 6XNN: LD VX, NN -/
  | ldVxNn (x : Reg) (nn : Byte)
  /-- 7XNN: ADD VX, NN -/
  | addVxNn (x : Reg) (nn : Byte)
  /-- 8XY0: LD VX, VY -/
  | ldVxVy (x y : Reg)
  /-- 8XY1: OR VX, VY -/
  | or (x y : Reg)
  /-- 8XY2: AND VX, VY -/
  | and (x y : Reg)
  /-- 8XY3: XOR VX, VY -/
  | xor (x y : Reg)
  /-- 8XY4: ADD VX, VY -/
  | addVxVy (x y : Reg)
  /-- 8XY5: SUB VX, VY -/
  | sub (x y : Reg)
  /-- 8XY6: SHR VX, VY -/
  | shr (x y : Reg)
  /-- 8XY7: SUBN VX, VY -/
  | subn (x y : Reg)
  /-- 8XYE: SHL VX, VY -/
  | shl (x y : Reg)
  /-- 9XY0: SNE VX, VY -/
  | sneVxVy (x y : Reg)
  /-- ANNN: LD I, NNN -/
  | ldINnn (nnn : Nat)
  /-- BNNN: JP V0, NNN -/
  | jpV0Nnn (nnn : Nat)
  /-- CXNN: RND VX, NN -/
  | rnd (x : Reg) (nn : Byte)
  /-- DXYN: DRW VX, VY, N -/
  | drw (x y : Reg) (n : Nat)
  /-- EX9E: SKP VX -/
  | skp (x : Reg)
  /-- EXA1: SKNP VX -/
  | sknp (x : Reg)
  /-- FX07: LD VX, DT -/
  | ldVxDt (x : Reg)
  /-- FX15: LD DT, VX -/
  | ldDtVx (x : Reg)
  /-- FX18: LD ST, VX -/
  | ldStVx (x : Reg)
  /-- FX1E: ADD I, VX -/
  | addIVx (x : Reg)
  /-- FX33: LD B, VX -/
  | ldBVx (x : Reg)
  /-- FX55: LD [I], VX -/
  | ldMemIVx (x : Reg)
  /-- FX65: LD VX, [I] -/
  | ldVxMemI (x : Reg)
  deriving DecidableEq, Repr

/-- The mnemonic of an instruction's row in spec/opcode_table.json. -/
def Instr.mnemonic : Instr → String
  | .cls => "CLS"
  | .ret => "RET"
  | .jp _ => "JP"
  | .call _ => "CALL"
  | .seVxNn _ _ => "SE_VX_NN"
  | .sneVxNn _ _ => "SNE_VX_NN"
  | .seVxVy _ _ => "SE_VX_VY"
  | .ldVxNn _ _ => "LD_VX_NN"
  | .addVxNn _ _ => "ADD_VX_NN"
  | .ldVxVy _ _ => "LD_VX_VY"
  | .or _ _ => "OR"
  | .and _ _ => "AND"
  | .xor _ _ => "XOR"
  | .addVxVy _ _ => "ADD_VX_VY"
  | .sub _ _ => "SUB"
  | .shr _ _ => "SHR"
  | .subn _ _ => "SUBN"
  | .shl _ _ => "SHL"
  | .sneVxVy _ _ => "SNE_VX_VY"
  | .ldINnn _ => "LD_I_NNN"
  | .jpV0Nnn _ => "JP_V0_NNN"
  | .rnd _ _ => "RND"
  | .drw _ _ _ => "DRW"
  | .skp _ => "SKP"
  | .sknp _ => "SKNP"
  | .ldVxDt _ => "LD_VX_DT"
  | .ldDtVx _ => "LD_DT_VX"
  | .ldStVx _ => "LD_ST_VX"
  | .addIVx _ => "ADD_I_VX"
  | .ldBVx _ => "LD_B_VX"
  | .ldMemIVx _ => "LD_MEM_I_VX"
  | .ldVxMemI _ => "LD_VX_MEM_I"

end Sys2Proof
end

