-- ==== Sys2Proof/WellFormed.lean ====
section
/-! DEFINITION. The checks on terms: an instruction's operands fit their encoding fields (30_encoding.md R71,
R73), a configuration meets the constraint of 00_scope.md R6, an image fits the memory above 0x200
(70_reset_and_hazards.md R251). Register indexes and NN carry their bounds in their types. -/

namespace Sys2Proof

/-- The operands fit their fields: NNN is 12 bits, N is 4 bits (R71). -/
def Instr.wf : Instr → Bool
  | .jp nnn => decide (nnn < 0x1000)
  | .call nnn => decide (nnn < 0x1000)
  | .ldINnn nnn => decide (nnn < 0x1000)
  | .jpV0Nnn nnn => decide (nnn < 0x1000)
  | .drw _ _ n => decide (n < 16)
  | .cls => true
  | .ret => true
  | .seVxNn _ _ => true
  | .sneVxNn _ _ => true
  | .seVxVy _ _ => true
  | .ldVxNn _ _ => true
  | .addVxNn _ _ => true
  | .ldVxVy _ _ => true
  | .or _ _ => true
  | .and _ _ => true
  | .xor _ _ => true
  | .addVxVy _ _ => true
  | .sub _ _ => true
  | .shr _ _ => true
  | .subn _ _ => true
  | .shl _ _ => true
  | .sneVxVy _ _ => true
  | .rnd _ _ => true
  | .skp _ => true
  | .sknp _ => true
  | .ldVxDt _ => true
  | .ldDtVx _ => true
  | .ldStVx _ => true
  | .addIVx _ => true
  | .ldBVx _ => true
  | .ldMemIVx _ => true
  | .ldVxMemI _ => true

/-- R6: 0x202 <= MEM_SIZE <= 0x10000 (log 17). -/
def Config.wf (c : Config) : Bool := decide (0x202 ≤ c.memSize) && decide (c.memSize ≤ 0x10000)

/-- R251: an image longer than MEM_SIZE - 0x200 bytes does not fit. -/
def Config.imageFits (c : Config) (rom : List Byte) : Bool := decide (rom.length ≤ c.memSize - progBase)

end Sys2Proof
end

