-- ==== Sys2Proof/Decode.lean ====
section
/-! DEFINITION. Instruction words: their fields (30_encoding.md R71), the total decoder (R74), which rejects
every other word by the name of its unknown class (R77), the encoder, written from the formats (R72), and
the opcode table's match and mask columns. -/

namespace Sys2Proof

/-! ### Fields -/

/-- `w[hi:lo]`, bits hi down to lo as an unsigned number (R14). -/
def slice (w : Word) (hi lo : Nat) : Nat := w.toNat / 2 ^ lo % 2 ^ (hi + 1 - lo)

/-- The family F = w[15:12] (R71). -/
def fieldF (w : Word) : Nat := slice w 15 12

/-- The register index X = w[11:8] (R71). -/
def fieldX (w : Word) : Reg := ⟨slice w 11 8, by unfold slice; omega⟩

/-- The register index Y = w[7:4] (R71). -/
def fieldY (w : Word) : Reg := ⟨slice w 7 4, by unfold slice; omega⟩

/-- The nibble N = w[3:0] (R71). -/
def fieldN (w : Word) : Nat := slice w 3 0

/-- The byte NN = w[7:0] (R71). -/
def fieldNN (w : Word) : Byte := BitVec.ofNat 8 (slice w 7 0)

/-- The address NNN = w[11:0] (R71). -/
def fieldNNN (w : Word) : Nat := slice w 11 0

/-- `hi ++ lo` = hi * 256 + lo: the byte at the lower address is the high byte (R14, R53). -/
def assemble (hi lo : Byte) : Word := BitVec.ofNat 16 (hi.toNat * 256 + lo.toNat)

/-- w[15:8], the byte at the lower address (R53). -/
def highByte (w : Word) : Byte := BitVec.ofNat 8 (slice w 15 8)

/-- w[7:0], the byte at the higher address (R53). -/
def lowByte (w : Word) : Byte := BitVec.ofNat 8 (slice w 7 0)

/-! ### The decoder -/

/-- The classes of unknown words of R77, by family. -/
inductive UnknownClass where
  /-- Family 0, except 0x00E0 and 0x00EE. -/
  | family0
  /-- 5XYN with N != 0. -/
  | family5
  /-- 8XYN with N in 8, 9, A, B, C, D, F. -/
  | family8
  /-- 9XYN with N != 0. -/
  | family9
  /-- EXNN with NN not in 9E, A1. -/
  | familyE
  /-- FXNN with NN not in 07, 15, 18, 1E, 33, 55, 65. -/
  | familyF
  deriving DecidableEq, Repr

/-- Family 8, by the low nibble (R74). -/
def decodeFamily8 (x y : Reg) (n : Nat) : Except UnknownClass Instr :=
  match n with
  | 0x0 => .ok (.ldVxVy x y)
  | 0x1 => .ok (.or x y)
  | 0x2 => .ok (.and x y)
  | 0x3 => .ok (.xor x y)
  | 0x4 => .ok (.addVxVy x y)
  | 0x5 => .ok (.sub x y)
  | 0x6 => .ok (.shr x y)
  | 0x7 => .ok (.subn x y)
  | 0xE => .ok (.shl x y)
  | _ => .error .family8

/-- Family E, by the low byte (R74). -/
def decodeFamilyE (x : Reg) (nn : Byte) : Except UnknownClass Instr :=
  if nn = 0x9E then .ok (.skp x)
  else if nn = 0xA1 then .ok (.sknp x)
  else .error .familyE

/-- Family F, by the low byte (R74). -/
def decodeFamilyF (x : Reg) (nn : Byte) : Except UnknownClass Instr :=
  if nn = 0x07 then .ok (.ldVxDt x)
  else if nn = 0x15 then .ok (.ldDtVx x)
  else if nn = 0x18 then .ok (.ldStVx x)
  else if nn = 0x1E then .ok (.addIVx x)
  else if nn = 0x33 then .ok (.ldBVx x)
  else if nn = 0x55 then .ok (.ldMemIVx x)
  else if nn = 0x65 then .ok (.ldVxMemI x)
  else .error .familyF

/-- The decode function of R74: total on every word. -/
def decode (w : Word) : Except UnknownClass Instr :=
  match fieldF w with
  | 0x0 => if w = 0x00E0 then .ok .cls else if w = 0x00EE then .ok .ret else .error .family0
  | 0x1 => .ok (.jp (fieldNNN w))
  | 0x2 => .ok (.call (fieldNNN w))
  | 0x3 => .ok (.seVxNn (fieldX w) (fieldNN w))
  | 0x4 => .ok (.sneVxNn (fieldX w) (fieldNN w))
  | 0x5 => if fieldN w = 0 then .ok (.seVxVy (fieldX w) (fieldY w)) else .error .family5
  | 0x6 => .ok (.ldVxNn (fieldX w) (fieldNN w))
  | 0x7 => .ok (.addVxNn (fieldX w) (fieldNN w))
  | 0x8 => decodeFamily8 (fieldX w) (fieldY w) (fieldN w)
  | 0x9 => if fieldN w = 0 then .ok (.sneVxVy (fieldX w) (fieldY w)) else .error .family9
  | 0xA => .ok (.ldINnn (fieldNNN w))
  | 0xB => .ok (.jpV0Nnn (fieldNNN w))
  | 0xC => .ok (.rnd (fieldX w) (fieldNN w))
  | 0xD => .ok (.drw (fieldX w) (fieldY w) (fieldN w))
  | 0xE => decodeFamilyE (fieldX w) (fieldNN w)
  | _ => decodeFamilyF (fieldX w) (fieldNN w)

/-- Why a byte sequence does not begin with an instruction. -/
inductive Reject where
  /-- Fewer than two bytes are left: every instruction is exactly two bytes (R70). -/
  | truncated
  /-- The word is unknown (R77). -/
  | unknown (cls : UnknownClass)
  deriving DecidableEq, Repr

/-- The instruction at the head of a byte sequence, and the bytes after it (R53, R70). -/
def decodeBytes : List Byte → Except Reject (Instr × List Byte)
  | hi :: lo :: rest =>
    match decode (assemble hi lo) with
    | .ok i => .ok (i, rest)
    | .error c => .error (.unknown c)
  | _ => .error .truncated

/-! ### The encoder -/

/-- Format A12 (R72): op, NNN. -/
def packA12 (op nnn : Nat) : Word := BitVec.ofNat 16 (op * 4096 + nnn % 4096)

/-- Formats XNN and XF8 (R72): op, X, a byte. -/
def packXNN (op : Nat) (x : Reg) (nn : Byte) : Word := BitVec.ofNat 16 (op * 4096 + x.val * 256 + nn.toNat)

/-- Formats XY0, XYF and XYN (R72): op, X, Y, a nibble. -/
def packXYN (op : Nat) (x y : Reg) (n : Nat) : Word :=
  BitVec.ofNat 16 (op * 4096 + x.val * 256 + y.val * 16 + n % 16)

/-- The word of an instruction, from the formats of R72. -/
def encode : Instr → Word
  | .cls => 0x00E0
  | .ret => 0x00EE
  | .jp nnn => packA12 0x1 nnn
  | .call nnn => packA12 0x2 nnn
  | .seVxNn x nn => packXNN 0x3 x nn
  | .sneVxNn x nn => packXNN 0x4 x nn
  | .seVxVy x y => packXYN 0x5 x y 0x0
  | .ldVxNn x nn => packXNN 0x6 x nn
  | .addVxNn x nn => packXNN 0x7 x nn
  | .ldVxVy x y => packXYN 0x8 x y 0x0
  | .or x y => packXYN 0x8 x y 0x1
  | .and x y => packXYN 0x8 x y 0x2
  | .xor x y => packXYN 0x8 x y 0x3
  | .addVxVy x y => packXYN 0x8 x y 0x4
  | .sub x y => packXYN 0x8 x y 0x5
  | .shr x y => packXYN 0x8 x y 0x6
  | .subn x y => packXYN 0x8 x y 0x7
  | .shl x y => packXYN 0x8 x y 0xE
  | .sneVxVy x y => packXYN 0x9 x y 0x0
  | .ldINnn nnn => packA12 0xA nnn
  | .jpV0Nnn nnn => packA12 0xB nnn
  | .rnd x nn => packXNN 0xC x nn
  | .drw x y n => packXYN 0xD x y n
  | .skp x => packXNN 0xE x 0x9E
  | .sknp x => packXNN 0xE x 0xA1
  | .ldVxDt x => packXNN 0xF x 0x07
  | .ldDtVx x => packXNN 0xF x 0x15
  | .ldStVx x => packXNN 0xF x 0x18
  | .addIVx x => packXNN 0xF x 0x1E
  | .ldBVx x => packXNN 0xF x 0x33
  | .ldMemIVx x => packXNN 0xF x 0x55
  | .ldVxMemI x => packXNN 0xF x 0x65

/-- The two bytes of an instruction, high byte at the lower address (R53, R70). -/
def encodeBytes (i : Instr) : List Byte := [highByte (encode i), lowByte (encode i)]

/-! ### The opcode table's match and mask columns -/

/-- One row of spec/opcode_table.json: a word is of the row iff `w &&& mask = pattern`. -/
structure OpcodeRow where
  mnemonic : String
  mask : Word
  pattern : Word
  deriving DecidableEq, Repr

def OpcodeRow.covers (r : OpcodeRow) (w : Word) : Prop := w &&& r.mask = r.pattern

/-- The rows of the control-transfer and immediate families. -/
def opcodeRowsLow : List OpcodeRow :=
  [⟨"CLS", 0xFFFF, 0x00E0⟩, ⟨"RET", 0xFFFF, 0x00EE⟩, ⟨"JP", 0xF000, 0x1000⟩, ⟨"CALL", 0xF000, 0x2000⟩,
   ⟨"SE_VX_NN", 0xF000, 0x3000⟩, ⟨"SNE_VX_NN", 0xF000, 0x4000⟩, ⟨"SE_VX_VY", 0xF00F, 0x5000⟩,
   ⟨"LD_VX_NN", 0xF000, 0x6000⟩, ⟨"ADD_VX_NN", 0xF000, 0x7000⟩]

/-- The rows of family 8. -/
def opcodeRowsAlu : List OpcodeRow :=
  [⟨"LD_VX_VY", 0xF00F, 0x8000⟩, ⟨"OR", 0xF00F, 0x8001⟩, ⟨"AND", 0xF00F, 0x8002⟩, ⟨"XOR", 0xF00F, 0x8003⟩,
   ⟨"ADD_VX_VY", 0xF00F, 0x8004⟩, ⟨"SUB", 0xF00F, 0x8005⟩, ⟨"SHR", 0xF00F, 0x8006⟩, ⟨"SUBN", 0xF00F, 0x8007⟩,
   ⟨"SHL", 0xF00F, 0x800E⟩]

/-- The rows of families 9 to F. -/
def opcodeRowsHigh : List OpcodeRow :=
  [⟨"SNE_VX_VY", 0xF00F, 0x9000⟩, ⟨"LD_I_NNN", 0xF000, 0xA000⟩, ⟨"JP_V0_NNN", 0xF000, 0xB000⟩,
   ⟨"RND", 0xF000, 0xC000⟩, ⟨"DRW", 0xF000, 0xD000⟩, ⟨"SKP", 0xF0FF, 0xE09E⟩, ⟨"SKNP", 0xF0FF, 0xE0A1⟩,
   ⟨"LD_VX_DT", 0xF0FF, 0xF007⟩, ⟨"LD_DT_VX", 0xF0FF, 0xF015⟩, ⟨"LD_ST_VX", 0xF0FF, 0xF018⟩,
   ⟨"ADD_I_VX", 0xF0FF, 0xF01E⟩, ⟨"LD_B_VX", 0xF0FF, 0xF033⟩, ⟨"LD_MEM_I_VX", 0xF0FF, 0xF055⟩,
   ⟨"LD_VX_MEM_I", 0xF0FF, 0xF065⟩]

/-- spec/opcode_table.json, in its order. -/
def opcodeTable : List OpcodeRow := opcodeRowsLow ++ opcodeRowsAlu ++ opcodeRowsHigh

/-! ### The host's view of the table -/

/-- The instruction the decoder reads from an instruction whose bits are w as spec/opcode_table.json
numbers them: one 16-bit word, bits above `nbits` zero, laid out high byte first (log 15). -/
def decodeTableWord (nbits w : Nat) : Option Instr :=
  if nbits ≤ 16 then
    match decodeBytes [highByte (BitVec.ofNat 16 (w % 2 ^ nbits)), lowByte (BitVec.ofNat 16 (w % 2 ^ nbits))] with
    | .ok (i, _) => some i
    | .error _ => none
  else none

end Sys2Proof
end

