-- ==== Sys2Proof/Machine/State.lean ====
section
/-! DEFINITION. The machine's state as plain data (spec 10_state.md), the reasons a step can stop, and the
state after reset (70_reset_and_hazards.md R250 with the empty image). -/

namespace Sys2Proof.Machine

/-- The byte memory (R34): address and byte pairs, addresses strictly rising, no entry equal to what an
unlisted address reads as. -/
abbrev Memory := List Host.Cell

/-- The framebuffer, indexed `FB[x][y]` with x in 0..63 and y in 0..31 (R16, R35). -/
abbrev Framebuffer := Vector (Vector Bool 32) 64

/-- The fatal conditions with the information each records (60_exceptions.md R225). -/
inductive FaultCause where
  /-- 1: the fetch of a Step; the lowest out-of-range address (R100, R227). -/
  | fetchOob (addr : Nat)
  /-- 2: DXYN, FX65; the lowest out-of-range address, I, and the byte count (R162, R229). -/
  | readOob (addr base count : Nat)
  /-- 3: FX33, FX55; the lowest out-of-range address, I, and the byte count (R162, R229). -/
  | writeOob (addr base count : Nat)
  /-- 4: 00EE with an empty stack (R228). -/
  | stackUnderflow
  /-- 5: 2NNN at a finite capacity; the depth (R107, R230). -/
  | stackOverflow (depth : Nat)
  /-- 6: EX9E, EXA1 with V[x] > 15; the key value (R202, R231). -/
  | keyIndexRange (key : Nat)
  deriving DecidableEq, Repr

/-- The codes of R225. -/
def FaultCause.code : FaultCause → Nat
  | .fetchOob _ => 1
  | .readOob _ _ _ => 2
  | .writeOob _ _ _ => 3
  | .stackUnderflow => 4
  | .stackOverflow _ => 5
  | .keyIndexRange _ => 6

/-- The record of a fault: cause (code and information), the address the instruction was fetched from, and
the fetched word, none when the fetch itself faults (R101, R225, R226; log 18). -/
structure FaultRecord where
  cause : FaultCause
  pc : Nat
  word : Option Word
  deriving DecidableEq, Repr

/-- `status` (R36). -/
inductive Status where
  | running
  | faulted (record : FaultRecord)
  deriving DecidableEq, Repr

/-- The events of the diagnostic log (R37, R232, R234). -/
inductive DiagEvent where
  | unknownOpcode (pc : Nat) (word : Word)
  | stackDeep (depth : Nat)
  deriving DecidableEq, Repr

/-- An operation the host issues on a constructed block (00_scope.md R13, 60_exceptions.md R222, R242). Bit k
of `keys` is key line k (log 8). -/
inductive HostOp where
  /-- `Step(keys, rnd)`. -/
  | step (keys : BitVec 16) (rnd : Byte)
  /-- A Step whose inputs the schedule does not name: they are free values (R145, R206; log 4). -/
  | stepAny
  /-- `Tick`. -/
  | tick
  deriving DecidableEq, Repr

/-- The Step in progress: where its instruction was fetched from, the fetched word (R38), and its two inputs
(R13). Between operations it is `Latch.idle` (log 5). -/
structure Latch where
  pc0 : Nat
  word : Option Word
  keys : BitVec 16
  rnd : Byte
  deriving DecidableEq, Repr

/-- No Step is in progress. -/
def Latch.idle : Latch := ⟨0, none, 0, 0⟩

/-- The state: the spec's record (R20) under the spec's names, then the model's own fields: the configuration
(log 1), the host's pending operations (log 2), the Step in progress (log 5), the free-value counter (log 4). -/
structure State where
  /-- V0 .. VF; VF is `V[15]` (R21, R23). -/
  V : Vector Byte 16
  /-- The index register (R26). -/
  I : Word
  /-- The program counter, held without wrap-around (R27, R29). -/
  PC : Nat
  /-- The call stack; the last element is the top (R16, R31). -/
  S : List Nat
  /-- The delay timer (R32). -/
  DT : Byte
  /-- The sound timer (R32). -/
  ST : Byte
  /-- The byte memory (R34). -/
  mem : Memory
  /-- The framebuffer (R35). -/
  FB : Framebuffer
  /-- Running or faulted (R36). -/
  status : Status
  /-- The diagnostic log, oldest event first (R37). -/
  diag : List DiagEvent
  /-- The configuration, fixed for a run (R2, R33). -/
  cfg : Config
  /-- The host's operations not yet performed, oldest first (R222). -/
  ops : List HostOp
  /-- The Step in progress (R38). -/
  cur : Latch
  /-- How many free Step inputs have been drawn. -/
  draws : Nat
  deriving DecidableEq, Repr

/-- Why a step stops with a fault. -/
inductive Fault where
  /-- Raised by `step` in a state whose `status` is Faulted: there neither Step nor Tick is enabled (R36, R226).
  Safe: the spec gives the block no further transition. -/
  | notEnabled (record : FaultRecord)
  deriving DecidableEq, Repr

/-- Why a step is refused. -/
inductive Refusal where
  /-- Raised by `exec` for an instruction without a meaning; no arm raises it. Safe. -/
  | notModelled (mnemonic : String)
  deriving DecidableEq, Repr

/-- Construct(empty image) with the default configuration (R250; the values are R24, R26, R30, R31, R32, R34,
R35, R36, R37); no operation pending, no Step in progress, no free value drawn (log 2, 4, 5, 11). -/
def State.reset : State where
  V := Vector.replicate 16 0
  I := 0
  PC := progBase
  S := []
  DT := 0
  ST := 0
  mem := []
  FB := Vector.replicate 64 (Vector.replicate 32 false)
  status := .running
  diag := []
  cfg := {}
  ops := []
  cur := Latch.idle
  draws := 0

end Sys2Proof.Machine
end

