-- ==== Sys2Proof/Machine/Ops.lean ====
section
/-! DEFINITION. The named operations the meanings share: registers, memory, the call stack, diagnostics, the
skip, the fetch (40_flow.md R100), fault entry (60_exceptions.md R226) as ONE operation, and what surrounds
one Step (R101, R222). -/

namespace Sys2Proof.Machine

/-- What executing an instruction answers. -/
abbrev Result := Host.Outcome State Fault Refusal

/-! ### Registers (00_scope.md R16) -/

/-- `V[x]` -/
def State.getV (s : State) (x : Reg) : Byte := s.V[x]

/-- `V[x] <- b` -/
def State.setV (s : State) (x : Reg) (b : Byte) : State := { s with V := s.V.set x b }

/-- VF, register 15 (R23). -/
abbrev regF : Reg := 15

/-- `I <- a` -/
def State.setI (s : State) (a : Word) : State := { s with I := a }

/-- `PC <- a`, without wrap-around (R29). -/
def State.setPC (s : State) (a : Nat) : State := { s with PC := a }

/-- `DT <- b` -/
def State.setDT (s : State) (b : Byte) : State := { s with DT := b }

/-- `ST <- b` -/
def State.setST (s : State) (b : Byte) : State := { s with ST := b }

def State.setMem (s : State) (m : Memory) : State := { s with mem := m }

def State.setFB (s : State) (fb : Framebuffer) : State := { s with FB := fb }

/-- `skip`: `PC <- PC + 2`, on top of the fetch's own advance (R17, R106). -/
def State.skip (s : State) : State := s.setPC (s.PC + 2)

/-- Skip if the condition holds (R106). -/
def State.skipIf (s : State) (c : Bool) : State := if c then s.skip else s

/-! ### Memory (20_memory.md) -/

/-- What an unlisted address reads as: the reset contents (R34, R250; log 16). -/
def Memory.unlisted : Byte := 0x00

/-- Canonical form: addresses strictly rising, no entry equal to what an unlisted address reads as. -/
abbrev Memory.wf (m : Memory) : Prop :=
  m.Pairwise (fun c d => c.1 < d.1) ∧ ∀ c ∈ m, c.2 ≠ Memory.unlisted

/-- Every listed address exists in a memory of `size` bytes (R50). -/
abbrev Memory.within (m : Memory) (size : Nat) : Prop := ∀ c ∈ m, c.1 < size

/-- `MemRead(a, 1)` (R17, R58). -/
def Memory.read : Memory → Nat → Byte
  | [], _ => Memory.unlisted
  | c :: m, a => if c.1 = a then c.2 else Memory.read m a

/-- Add an entry for an address that has none, at its place in the rising order. -/
def Memory.insert : Memory → Nat → Byte → Memory
  | [], a, b => [(a, b)]
  | c :: m, a, b => if a < c.1 then (a, b) :: c :: m else c :: Memory.insert m a b

/-- Remove the entry of an address. -/
def Memory.erase (m : Memory) (a : Nat) : Memory := m.filter fun c => c.1 ≠ a

/-- `MemWrite(a, 1, b)` (R17), keeping the canonical form. -/
def Memory.write (m : Memory) (a : Nat) (b : Byte) : Memory :=
  if b = Memory.unlisted then m.erase a else (m.erase a).insert a b

/-- The bytes at base, base+1, ..., base+n-1, in ascending order (R57). -/
def Memory.readBytes (m : Memory) (base n : Nat) : List Byte := (List.range n).map fun k => m.read (base + k)

/-- Write bytes at base, base+1, ..., in ascending order (R57). -/
def Memory.writeBytes : Memory → Nat → List Byte → Memory
  | m, _, [] => m
  | m, base, b :: bs => Memory.writeBytes (m.write base b) (base + 1) bs

/-- An image laid out from an address on, in canonical form (R250). -/
def Memory.ofImage (base : Nat) (rom : List Byte) : Memory :=
  ((rom.zipIdx base).map fun p => (p.2, p.1)).filter fun c => c.2 ≠ Memory.unlisted

/-- The byte at an address of the state's memory. -/
def State.byteAt (s : State) (a : Nat) : Byte := s.mem.read a

/-- The word whose high byte is at an address (R53). -/
def State.wordAt (s : State) (a : Nat) : Word := assemble (s.byteAt a) (s.byteAt (a + 1))

/-- The range check of R162 on n bytes from `base`: the lowest out-of-range address of the range, if it has
one. Addresses are natural numbers and do not wrap (R55). -/
def rangeFault (size base n : Nat) : Option Nat :=
  if 0 < n ∧ size ≤ base + n - 1 then some (max base size) else none

/-! ### The call stack (R17, R31) -/

/-- `push(a)` -/
def State.push (s : State) (a : Nat) : State := { s with S := s.S ++ [a] }

/-- `pop()`: the last element and the stack without it; none when the stack is empty. -/
def State.pop (s : State) : Option (Nat × State) :=
  match s.S.getLast? with
  | some a => some (a, { s with S := s.S.dropLast })
  | none => none

/-! ### Diagnostics and faults -/

/-- `report Diag(e)` (R17, R233). -/
def State.report (s : State) (e : DiagEvent) : State := { s with diag := s.diag ++ [e] }

/-- `raise Fault(c)`, the one fault entry (R17, R226): `status` becomes Faulted with the record and the PC
holds the faulting instruction's address again. Every raise comes before any write of its phase (R18), so
this leaves every other component as it was before the Step. There is no return from a fault (R236). -/
def raise (c : FaultCause) (s : State) : State :=
  { s with PC := s.cur.pc0, status := .faulted ⟨c, s.cur.pc0, s.cur.word⟩ }

/-- The execute phase of an unknown word: one event, nothing else (R232). -/
def execUnknown (w : Word) (s : State) : Result := .next (s.report (.unknownOpcode s.cur.pc0 w))

/-! ### One operation of the host (R101, R222) -/

/-- What the machine is to do next: the host's operation with its inputs, or nothing while the host issues none. -/
inductive Operation where
  | idle
  | step (keys : BitVec 16) (rnd : Byte)
  | tick
  deriving DecidableEq, Repr

/-- The next operation of the schedule, taken off it; `idle` where no operation is issued (R241; log 3). A Step
whose inputs the schedule does not name gets free values (log 4). -/
def nextOp (s : State) : Operation × State :=
  match s.ops with
  | [] => (.idle, s)
  | .step keys rnd :: rest => (.step keys rnd, { s with ops := rest })
  | .stepAny :: rest =>
    (.step (Config.freeKeys s.draws) (Config.freeRnd s.draws), { s with ops := rest, draws := s.draws + 1 })
  | .tick :: rest => (.tick, { s with ops := rest })

/-- A Step begins: its inputs and the address of its instruction are latched (R100, R101). -/
def beginStep (keys : BitVec 16) (rnd : Byte) (s : State) : State := { s with cur := ⟨s.PC, none, keys, rnd⟩ }

/-- The fetch of R100: the lowest out-of-range address if it faults, else the word and the state with PC
advanced by 2. -/
def fetch (s : State) : Except Nat (Word × State) :=
  if s.cfg.memSize ≤ s.PC then .error s.PC
  else if s.cfg.memSize ≤ s.PC + 1 then .error (s.PC + 1)
  else
    let w := s.wordAt s.PC
    .ok (w, { s with PC := s.PC + 2, cur := { s.cur with word := some w } })

/-- The Step is over: the latch is idle again (R38). -/
def State.retire (s : State) : State := { s with cur := Latch.idle }

/-- A Step's answer, with its latch idle again. -/
def retired : Result → Result
  | .next s => .next s.retire
  | .fault r => .fault r
  | .refused r => .refused r

/-! ### Loading a word by hand -/

/-- The schedule from its first Step on, the Ticks before it dropped; one Step with free inputs where it lists no
Step. -/
def stepDue : List HostOp → List HostOp
  | [] => [.stepAny]
  | .tick :: rest => stepDue rest
  | .stepAny :: rest => .stepAny :: rest
  | .step keys rnd :: rest => .step keys rnd :: rest

/-- The state with a word stored at the PC (high byte first, R53), about to run it: running, and with a Step
due (log 11). A byte whose address does not exist is not stored (R50). -/
def State.placeWord (s : State) (w : Word) : State :=
  let m := if s.PC < s.cfg.memSize then s.mem.write s.PC (highByte w) else s.mem
  let m := if s.PC + 1 < s.cfg.memSize then m.write (s.PC + 1) (lowByte w) else m
  { s with mem := m, status := .running, ops := stepDue s.ops }

end Sys2Proof.Machine
end

