-- ==== Sys2Proof/Machine/Operands.lean ====
section
/-! DEFINITION. The operand forms: what an instruction reads before it writes anything. All operands are
unsigned (30_encoding.md R73). -/

namespace Sys2Proof.Machine

/-- The source register of 8XY6 and 8XYE (41_alu.md R141; log 19). -/
def shiftSource (cfg : Config) (x y : Reg) : Reg := if cfg.qShiftVx then x else y

/-- `zext_16(NNN)`, the operand of ANNN (R73, 42_index_memory.md R160). -/
def zext16 (nnn : Nat) : Word := BitVec.ofNat 16 nnn

/-- V[0], ..., V[X], the registers of FX55 and FX65 (R73, 42_index_memory.md R167). -/
def State.regsUpTo (s : State) (x : Reg) : List Byte := s.V.toList.take (x.val + 1)

/-- The three decimal digits of a byte: hundreds, tens, ones (42_index_memory.md R163). -/
def bcdDigits (v : Byte) : List Byte :=
  [BitVec.ofNat 8 (v.toNat / 100), BitVec.ofNat 8 (v.toNat / 10 % 10), BitVec.ofNat 8 (v.toNat % 10)]

/-- The start column of a sprite, `V[x] mod 64` (43_display.md R182). -/
def startColumn (v : Byte) : Nat := v.toNat % 64

/-- The start row of a sprite, `V[y] mod 32` (43_display.md R182). -/
def startRow (v : Byte) : Nat := v.toNat % 32

/-- `keys[k]` of the Step in progress (R16, 44_timers_keys.md R206). -/
def State.keyDown (s : State) (k : Nat) : Bool := s.cur.keys.getLsbD k

/-- `rnd` of the Step in progress (R16, 41_alu.md R145). -/
def State.randomByte (s : State) : Byte := s.cur.rnd

end Sys2Proof.Machine
end

