-- ==== Sys2Proof/Machine/Alu.lean ====
section
/-! DEFINITION. Register and ALU instructions (41_alu.md): 6XNN, 7XNN, 8XY0 to 8XY7, 8XYE, CXNN. Operands are
read before any write, results are computed exactly and then truncated, and a flag is written last (R132). -/

namespace Sys2Proof.Machine

/-- Write a result to V[x], then a flag to VF: with x = 15, VF ends holding the flag (R23, R132). -/
def State.setResultThenFlag (s : State) (x : Reg) (result flag : Byte) : State :=
  (s.setV x result).setV regF flag

/-- Write a logical result to V[x]; under `Q_LOGIC_VF_RESET`, VF <- 0 after it (R137; log 10). -/
def State.setLogicResult (s : State) (x : Reg) (result : Byte) : State :=
  if s.cfg.qLogicVfReset then (s.setV x result).setV regF 0 else s.setV x result

/-- `(a + b) mod 256` -/
def add8 (a b : Byte) : Byte := BitVec.ofNat 8 (a.toNat + b.toNat)

/-- `(a - b) mod 256` -/
def sub8 (a b : Byte) : Byte := BitVec.ofInt 8 ((a.toNat : Int) - (b.toNat : Int))

/-- `s div 2` -/
def shr8 (s : Byte) : Byte := BitVec.ofNat 8 (s.toNat / 2)

/-- `(s * 2) mod 256` -/
def shl8 (s : Byte) : Byte := BitVec.ofNat 8 (s.toNat * 2)

/-- 6XNN (LD VX, NN), R130. -/
def execLdVxNn (x : Reg) (nn : Byte) (s : State) : Result := .next (s.setV x nn)

/-- 7XNN (ADD VX, NN), R131: no flag. -/
def execAddVxNn (x : Reg) (nn : Byte) (s : State) : Result := .next (s.setV x (add8 (s.getV x) nn))

/-- 8XY0 (LD VX, VY), R133. -/
def execLdVxVy (x y : Reg) (s : State) : Result := .next (s.setV x (s.getV y))

/-- 8XY1 (OR VX, VY), R134. -/
def execOr (x y : Reg) (s : State) : Result := .next (s.setLogicResult x (s.getV x ||| s.getV y))

/-- 8XY2 (AND VX, VY), R135. -/
def execAnd (x y : Reg) (s : State) : Result := .next (s.setLogicResult x (s.getV x &&& s.getV y))

/-- 8XY3 (XOR VX, VY), R136. -/
def execXor (x y : Reg) (s : State) : Result := .next (s.setLogicResult x (s.getV x ^^^ s.getV y))

/-- 8XY4 (ADD VX, VY), R138. -/
def execAddVxVy (x y : Reg) (s : State) : Result :=
  .next (s.setResultThenFlag x (add8 (s.getV x) (s.getV y)) (carryFlag (s.getV x) (s.getV y)))

/-- 8XY5 (SUB VX, VY), R139. -/
def execSub (x y : Reg) (s : State) : Result :=
  .next (s.setResultThenFlag x (sub8 (s.getV x) (s.getV y)) (noBorrowFlag (s.getV x) (s.getV y)))

/-- 8XY7 (SUBN VX, VY), R140. -/
def execSubn (x y : Reg) (s : State) : Result :=
  .next (s.setResultThenFlag x (sub8 (s.getV y) (s.getV x)) (noBorrowFlag (s.getV y) (s.getV x)))

/-- 8XY6 (SHR VX, VY), R142. -/
def execShr (x y : Reg) (s : State) : Result :=
  let v := s.getV (shiftSource s.cfg x y)
  .next (s.setResultThenFlag x (shr8 v) (lowBitFlag v))

/-- 8XYE (SHL VX, VY), R143. -/
def execShl (x y : Reg) (s : State) : Result :=
  let v := s.getV (shiftSource s.cfg x y)
  .next (s.setResultThenFlag x (shl8 v) (highBitFlag v))

/-- CXNN (RND VX, NN), R145. -/
def execRnd (x : Reg) (nn : Byte) (s : State) : Result := .next (s.setV x (s.randomByte &&& nn))

end Sys2Proof.Machine
end

