-- ==== Sys2Proof/Machine/Display.lean ====
section
/-! DEFINITION. The display contract, the sprite draw and the collision detector (43_display.md): 00E0, DXYN. -/

namespace Sys2Proof.Machine

/-- A cell of the 64x32 grid: x, then y (R185). -/
abbrev Pixel := Fin 64 × Fin 32

/-- `FB[x][y]` -/
def pixelOn (fb : Framebuffer) (p : Pixel) : Bool := fb[p.1][p.2]

/-- `FB[x][y] <- b` -/
def putPixel (fb : Framebuffer) (p : Pixel) (b : Bool) : Framebuffer := fb.set p.1 (fb[p.1].set p.2 b)

/-- The framebuffer `clear()` leaves: every pixel 0 (R185). -/
def clearScreen : Framebuffer := Vector.replicate 64 (Vector.replicate 32 false)

/-- `set_pixel_xor(x, y)`: the framebuffer after it and "collided" (R185). -/
def setPixelXor (fb : Framebuffer) (p : Pixel) : Framebuffer × Bool := (putPixel fb p (!pixelOn fb p), pixelOn fb p)

/-- Where a sprite pixel at (x, y), possibly beyond the grid, is drawn; none if it is dropped (R182). -/
def place (edge : DrawEdge) (x y : Nat) : Option Pixel :=
  match edge with
  | .wrap => some (⟨x % 64, Nat.mod_lt x (by decide)⟩, ⟨y % 32, Nat.mod_lt y (by decide)⟩)
  | .clip => if h : x < 64 ∧ y < 32 then some (⟨x, h.1⟩, ⟨y, h.2⟩) else none

/-- `row[7 - c]`: bit 7 is the leftmost pixel (R183; log 10). -/
def spriteBit (row : Byte) (c : Nat) : Bool := row.getLsbD (7 - c)

/-- The cells one sprite row draws, from left to right (R181, R183). -/
def rowPixels (edge : DrawEdge) (x0 y : Nat) (row : Byte) : List Pixel :=
  (List.range 8).filterMap fun c => if spriteBit row c then place edge (x0 + c) y else none

/-- The cells a sprite of n rows draws, row by row (R181): row r is the byte at base + r. -/
def spritePixels (edge : DrawEdge) (m : Memory) (base n x0 y0 : Nat) : List Pixel :=
  (List.range n).flatMap fun r => rowPixels edge x0 (y0 + r) (m.read (base + r))

/-- One `set_pixel_xor` per cell, the collisions OR-ed together (R184). -/
def xorPixels : List Pixel → Framebuffer → Bool → Framebuffer × Bool
  | [], fb, collided => (fb, collided)
  | p :: ps, fb, collided => xorPixels ps (setPixelXor fb p).1 (collided || (setPixelXor fb p).2)

/-- The cells DXYN draws in a state: coordinates read before VF is written (R181). -/
def State.drawnPixels (s : State) (x y : Reg) (n : Nat) : List Pixel :=
  spritePixels s.cfg.drawEdge s.mem s.I.toNat n (startColumn (s.getV x)) (startRow (s.getV y))

/-- 00E0 (CLS), R180. -/
def execCls (s : State) : Result := .next (s.setFB clearScreen)

/-- DXYN (DRW VX, VY, N), R181; READ_OOB if the range check fails (R162, R229). -/
def execDrw (x y : Reg) (n : Nat) (s : State) : Result :=
  match rangeFault s.cfg.memSize s.I.toNat n with
  | some addr => .next (raise (.readOob addr s.I.toNat n) s)
  | none =>
    let drawn := xorPixels (s.drawnPixels x y n) s.FB false
    .next ((s.setFB drawn.1).setV regF (collisionFlag drawn.2))

end Sys2Proof.Machine
end

