-- ==== Sys2Proof/Machine/Flow.lean ====
section
/-! DEFINITION. Control transfer (40_flow.md): 00EE, 1NNN, 2NNN, the four register and immediate skips, BNNN.
When a meaning runs, PC already holds the address of the instruction plus 2 (R18, R100). -/

namespace Sys2Proof.Machine

/-- 00EE (RET), R102; with an empty stack STACK_UNDERFLOW (R228). -/
def execRet (s : State) : Result :=
  match s.pop with
  | some (a, s') => .next (s'.setPC a)
  | none => .next (raise .stackUnderflow s)

/-- 1NNN (JP NNN), R103. -/
def execJp (nnn : Nat) (s : State) : Result := .next (s.setPC nnn)

/-- A push would exceed a finite capacity (R104, R107; log 17). -/
def stackFull (s : State) : Bool :=
  match s.cfg.stackCapacity with
  | some k => decide (s.S.length = k)
  | none => false

/-- The report of a stack deeper than the historical 16 levels (R104, R234). -/
def reportDepth (s : State) : State :=
  if 16 < s.S.length then s.report (.stackDeep s.S.length) else s

/-- 2NNN (CALL NNN), R104; at a full finite stack STACK_OVERFLOW (R107). -/
def execCall (nnn : Nat) (s : State) : Result :=
  if stackFull s then .next (raise (.stackOverflow s.S.length) s)
  else .next (reportDepth ((s.push s.PC).setPC nnn))

/-- BNNN (JP V0, NNN), R105: no mod and no mask. -/
def execJpV0Nnn (nnn : Nat) (s : State) : Result := .next (s.setPC (nnn + (s.getV 0).toNat))

/-- 3XNN (SE VX, NN), R108. -/
def execSeVxNn (x : Reg) (nn : Byte) (s : State) : Result := .next (s.skipIf (s.getV x == nn))

/-- 4XNN (SNE VX, NN), R109. -/
def execSneVxNn (x : Reg) (nn : Byte) (s : State) : Result := .next (s.skipIf (s.getV x != nn))

/-- 5XY0 (SE VX, VY), R110. -/
def execSeVxVy (x y : Reg) (s : State) : Result := .next (s.skipIf (s.getV x == s.getV y))

/-- 9XY0 (SNE VX, VY), R111. -/
def execSneVxVy (x y : Reg) (s : State) : Result := .next (s.skipIf (s.getV x != s.getV y))

end Sys2Proof.Machine
end

