-- ==== Sys2Proof/Machine/IndexMemory.lean ====
section
/-! DEFINITION. Index register and memory instructions (42_index_memory.md): ANNN, FX1E, FX33, FX55, FX65. The
whole range of an access is checked before anything is written (R162). -/

namespace Sys2Proof.Machine

/-- ANNN (LD I, NNN), R160. -/
def execLdINnn (nnn : Nat) (s : State) : Result := .next (s.setI (zext16 nnn))

/-- `(I + n) mod 65536` -/
def State.indexPlus (s : State) (n : Nat) : Word := BitVec.ofNat 16 (s.I.toNat + n)

/-- FX1E (ADD I, VX), R161: no flag, no check. -/
def execAddIVx (x : Reg) (s : State) : Result := .next (s.setI (s.indexPlus (s.getV x).toNat))

/-- Store bytes from I on, after the range check of R162; WRITE_OOB if it fails (R229). -/
def storeAtI (bytes : List Byte) (s : State) (after : State → State) : Result :=
  match rangeFault s.cfg.memSize s.I.toNat bytes.length with
  | some addr => .next (raise (.writeOob addr s.I.toNat bytes.length) s)
  | none => .next (after (s.setMem (s.mem.writeBytes s.I.toNat bytes)))

/-- Under `Q_MEM_INCR_I`, `I <- (I + X + 1) mod 65536` after all transfers (R165; log 10). -/
def State.bumpI (x : Reg) (s : State) : State :=
  if s.cfg.qMemIncrI then s.setI (s.indexPlus (x.val + 1)) else s

/-- FX33 (LD B, VX), R163. -/
def execLdBVx (x : Reg) (s : State) : Result := storeAtI (bcdDigits (s.getV x)) s id

/-- FX55 (LD [I], VX), R167. -/
def execLdMemIVx (x : Reg) (s : State) : Result := storeAtI (s.regsUpTo x) s (State.bumpI x)

/-- V[k] <- mem[I + k] for k in 0 .. X (R168). -/
def State.loadRegs (x : Reg) (s : State) : State :=
  { s with V := Vector.ofFn fun k : Reg => if k ≤ x then s.byteAt (s.I.toNat + k.val) else s.getV k }

/-- FX65 (LD VX, [I]), R168; READ_OOB if the range check fails (R229). -/
def execLdVxMemI (x : Reg) (s : State) : Result :=
  match rangeFault s.cfg.memSize s.I.toNat (x.val + 1) with
  | some addr => .next (raise (.readOob addr s.I.toNat (x.val + 1)) s)
  | none => .next (State.bumpI x (State.loadRegs x s))

end Sys2Proof.Machine
end

