-- ==== Sys2Proof/Machine/KeysTimers.lean ====
section
/-! DEFINITION. Key skips and timer transfers (44_timers_keys.md): EX9E, EXA1, FX07, FX15, FX18; and the
countdown `tick_timers` (60_exceptions.md R223). -/

namespace Sys2Proof.Machine

/-- Skip on the state of key V[x], after the index check of R202; KEY_INDEX_RANGE if V[x] > 15 (R231). -/
def skipOnKey (x : Reg) (wanted : Bool) (s : State) : Result :=
  if 15 < (s.getV x).toNat then .next (raise (.keyIndexRange (s.getV x).toNat) s)
  else .next (s.skipIf (s.keyDown (s.getV x).toNat == wanted))

/-- EX9E (SKP VX), R200: skip if key V[x] is down. -/
def execSkp (x : Reg) (s : State) : Result := skipOnKey x true s

/-- EXA1 (SKNP VX), R201: skip if key V[x] is up. -/
def execSknp (x : Reg) (s : State) : Result := skipOnKey x false s

/-- FX07 (LD VX, DT), R203. -/
def execLdVxDt (x : Reg) (s : State) : Result := .next (s.setV x s.DT)

/-- FX15 (LD DT, VX), R204. -/
def execLdDtVx (x : Reg) (s : State) : Result := .next (s.setDT (s.getV x))

/-- FX18 (LD ST, VX), R205. -/
def execLdStVx (x : Reg) (s : State) : Result := .next (s.setST (s.getV x))

/-- One timer's countdown: `if T > 0: T <- T - 1` (R223). -/
def countDown (t : Byte) : Byte := if 0 < t.toNat then BitVec.ofNat 8 (t.toNat - 1) else t

/-- Tick (`tick_timers`), R223. -/
def tick (s : State) : State := (s.setDT (countDown s.DT)).setST (countDown s.ST)

end Sys2Proof.Machine
end

