-- ==== Sys2Proof/Machine/Step.lean ====
section
/-! DEFINITION. One operation of the machine (00_scope.md R13, 40_flow.md R101, 60_exceptions.md R222): the next
operation of the host's schedule, a whole Step or a Tick, or nothing while the host issues none (R241). -/

namespace Sys2Proof.Machine

/-- `Step(keys, rnd)` (R101): fetch, decode, execute; an unknown word is R232. -/
def runStep (keys : BitVec 16) (rnd : Byte) (s : State) : Result :=
  match fetch (beginStep keys rnd s) with
  | .error addr => retired (.next (raise (.fetchOob addr) (beginStep keys rnd s)))
  | .ok (w, s') =>
    match decode w with
    | .ok i => retired (exec i s')
    | .error _ => retired (execUnknown w s')

/-- One operation. In Faulted none is enabled (R226); while none is issued the state stays unchanged (R241). -/
def step (s : State) : Host.Outcome State Fault Refusal :=
  match s.status with
  | .faulted r => .fault (.notEnabled r)
  | .running =>
    match nextOp s with
    | (.idle, s') => .next s'
    | (.step keys rnd, s') => runStep keys rnd s'
    | (.tick, s') => .next (tick s')

/-- The state with the instruction whose bits are w, as spec/opcode_table.json numbers them, placed so that
the next step runs it (log 11, 15). -/
def State.withFetchWord (s : State) (nbits w : Nat) : State :=
  s.placeWord (BitVec.ofNat 16 (w % 2 ^ nbits))

end Sys2Proof.Machine
end

