-- ==== Sys2Proof/Machine/Construct.lean ====
section
/-! DEFINITION. Construct(rom), the block's only reset (70_reset_and_hazards.md R250, R251). -/

namespace Sys2Proof.Machine

/-- Why Construct yields no state (R251). -/
inductive LoadError where
  | romTooLarge
  deriving DecidableEq, Repr

/-- `Construct(rom)` at a configuration: the image at 0x200, 0x00 elsewhere, every other component at its
reset value (R250); an image that does not fit is refused (R251). -/
def construct (cfg : Config) (rom : List Byte) : Except LoadError State :=
  if cfg.imageFits rom then .ok { State.reset with cfg := cfg, mem := Memory.ofImage progBase rom }
  else .error .romTooLarge

end Sys2Proof.Machine
end

