-- ==== Sys2Proof/Safety.lean ====
section
/-! DEFINITION. The terms claims are stated in: what a step leaves unchanged, which registers an instruction may
write, the invariant of reachable states, and what a claim about a run says (70_reset_and_hazards.md R257). -/

namespace Sys2Proof.Machine

/-- The components of the state a frame speaks of: the spec's (R20) and the model's own (the Step in progress;
the schedule and the free-value counter; the configuration). -/
inductive Component where
  | V | I | PC | S | DT | ST | mem | FB | status | diag | cur | host | cfg
  deriving DecidableEq, Repr

/-- Two states agree on a component: registers one by one, memory byte by byte, pixels one by one. -/
def Component.agree (s t : State) : Component → Prop
  | .V => ∀ r : Reg, t.getV r = s.getV r
  | .I => t.I = s.I
  | .PC => t.PC = s.PC
  | .S => t.S = s.S
  | .DT => t.DT = s.DT
  | .ST => t.ST = s.ST
  | .mem => ∀ a : Nat, t.byteAt a = s.byteAt a
  | .FB => ∀ p : Pixel, pixelOn t.FB p = pixelOn s.FB p
  | .status => t.status = s.status
  | .diag => t.diag = s.diag
  | .cur => t.cur = s.cur
  | .host => t.ops = s.ops ∧ t.draws = s.draws
  | .cfg => t.cfg = s.cfg

/-- FRAME: every component that is not named is the same in the two states. -/
def UnchangedBut (written : List Component) (s t : State) : Prop :=
  ∀ c : Component, c ∉ written → c.agree s t

/-- The registers an instruction may write under a configuration (10_state.md R22, R25). -/
def mayWriteV (cfg : Config) (i : Instr) (r : Reg) : Bool :=
  match i with
  | .ldVxNn x _ | .addVxNn x _ | .ldVxVy x _ | .rnd x _ | .ldVxDt x => r == x
  | .or x _ | .and x _ | .xor x _ => r == x || (cfg.qLogicVfReset && r == regF)
  | .addVxVy x _ | .sub x _ | .shr x _ | .subn x _ | .shl x _ => r == x || r == regF
  | .drw _ _ _ => r == regF
  | .ldVxMemI x => decide (r ≤ x)
  | .cls | .ret | .jp _ | .call _ | .seVxNn _ _ | .sneVxNn _ _ | .seVxVy _ _ | .sneVxVy _ _ | .ldINnn _
  | .jpV0Nnn _ | .skp _ | .sknp _ | .ldDtVx _ | .ldStVx _ | .addIVx _ | .ldBVx _ | .ldMemIVx _ => false

/-- What every event of the diagnostic log says is true of it (60_exceptions.md R232, R234). -/
def DiagEvent.truthful : DiagEvent → Prop
  | .unknownOpcode _ w => ∃ c, decode w = .error c
  | .stackDeep d => 16 < d

/-- The invariant of the states a run reaches. -/
structure State.Inv (s : State) : Prop where
  /-- The configuration meets R6. -/
  config : s.cfg.wf = true
  /-- Memory is in canonical form. -/
  memory : s.mem.wf
  /-- Memory lists no address at or above MEM_SIZE (R50). -/
  bounds : s.mem.within s.cfg.memSize
  /-- R28: every reachable PC is at most max(0x10FE, MEM_SIZE + 2). -/
  pc : s.PC ≤ max 0x10FE (s.cfg.memSize + 2)
  /-- R28: a return address is a value a fetch left in PC, at most MEM_SIZE. -/
  returns : ∀ a ∈ s.S, a ≤ s.cfg.memSize
  /-- R8: a finite capacity is never exceeded. -/
  depth : ∀ k, s.cfg.stackCapacity = some k → s.S.length ≤ k
  /-- R38: between operations no Step is in progress. -/
  idle : s.cur = Latch.idle
  /-- R226: the PC still holds the faulting instruction's address. -/
  fault : ∀ r, s.status = .faulted r → r.pc = s.PC
  /-- The log holds only unknown words and depths above 16. -/
  log : ∀ e ∈ s.diag, e.truthful

/-- R257: a claim about a run names an operation count and a schedule (`s.ops`, which lists at least that many
operations) and speaks of the state after those operations; it is false if that state is Faulted. -/
def HoldsAfter (n : Nat) (s : State) (claim : State → Prop) : Prop :=
  n ≤ s.ops.length ∧ ∃ t, Host.Core.run Sys2Proof.core n s = .next t ∧ t.status = .running ∧ claim t

end Sys2Proof.Machine
end

