-- ==== Sys2Proof/Certificates/Slice0/Obligations.lean ====
section
/-! DEFINITION. The statements for the provers. Each docstring names the rule of spec/ it formalises. A clause that
rests on a decision of the spec's own (92_eei_decisions.md D<n>) or on a log entry of the model says so. Values are
unsigned numbers (R15), so results are stated on natural numbers. `exec i s` runs the execute phase: `s.PC` is
already the address of the instruction plus 2 (R18), and `s.cur` holds that address, the fetched word and the
Step's inputs. -/

open Sys2Proof Sys2Proof.Machine

/-! ### Terms the statements share -/

namespace Sys2Proof.Claims

/-- V[x] gets a value; every other register and every other component stays. -/
def WritesReg (x : Reg) (value : Nat) (s t : State) : Prop :=
  (t.getV x).toNat = value ∧ (∀ r, r ≠ x → t.getV r = s.getV r) ∧ UnchangedBut [.V] s t

/-- V[x] gets a result and VF a flag, the flag written last (R132): with x = 15, VF holds the flag. Every other
register and every other component stays. -/
def WritesResultThenFlag (x : Reg) (result flag : Nat) (s t : State) : Prop :=
  (x ≠ 15 → (t.getV x).toNat = result) ∧ (t.getV 15).toNat = flag ∧
  (∀ r, r ≠ x → r ≠ 15 → t.getV r = s.getV r) ∧ UnchangedBut [.V] s t

/-- V[x] gets the bitwise combination of V[x] and V[y]; under `Q_LOGIC_VF_RESET` VF ends as 0 (R137). Every other
register and every other component stays. -/
def WritesLogic (op : Bool → Bool → Bool) (x y : Reg) (s t : State) : Prop :=
  (¬(s.cfg.qLogicVfReset = true ∧ x = 15) →
    ∀ k < 8, (t.getV x).getLsbD k = op ((s.getV x).getLsbD k) ((s.getV y).getLsbD k)) ∧
  (s.cfg.qLogicVfReset = true → t.getV 15 = 0) ∧
  (∀ r, r ≠ x → ¬(s.cfg.qLogicVfReset = true ∧ r = 15) → t.getV r = s.getV r) ∧ UnchangedBut [.V] s t

/-- PC moves by 2 if the condition holds and stays otherwise; every other component stays (R106). -/
def SkipsWhen (condition : Prop) (s t : State) : Prop :=
  (condition → t.PC = s.PC + 2) ∧ (¬condition → t.PC = s.PC) ∧ UnchangedBut [.PC] s t

/-- The state is that of a fault raised in the execute phase: the record of R225 and R226, the PC back at the
instruction, nothing else changed. -/
def FaultedBy (cause : FaultCause) (s t : State) : Prop :=
  t.status = .faulted ⟨cause, s.cur.pc0, s.cur.word⟩ ∧ t.PC = s.cur.pc0 ∧ UnchangedBut [.PC, .status] s t

/-- The cause of the fault a state is in. -/
def FaultCauseIs (cause : FaultCause) (t : State) : Prop := ∃ r, t.status = .faulted r ∧ r.cause = cause

/-- Where the pixel of row r and column c of a sprite lands, from the two edge policies of R182. -/
def LandsOn (s : State) (x y : Reg) (r c : Nat) (p : Pixel) : Prop :=
  match s.cfg.drawEdge with
  | .wrap => p.1.val = ((s.getV x).toNat % 64 + c) % 64 ∧ p.2.val = ((s.getV y).toNat % 32 + r) % 32
  | .clip => p.1.val = (s.getV x).toNat % 64 + c ∧ p.2.val = (s.getV y).toNat % 32 + r

/-- Some set bit of an n-row sprite at I lands on the cell (R181, R183: bit 7 - c of mem[I + r]). -/
def SpriteCovers (s : State) (x y : Reg) (n : Nat) (p : Pixel) : Prop :=
  ∃ r < n, ∃ c < 8, (s.byteAt (s.I.toNat + r)).getLsbD (7 - c) = true ∧ LandsOn s x y r c p

/-- The condition of a skip instruction (R108 to R111, R200, R201) under a key snapshot; none for a key skip whose
V[x] is no key (R202), and for any other instruction. -/
def skipCondition (keys : BitVec 16) (s : State) : Instr → Option Bool
  | .seVxNn x nn => some (decide ((s.getV x).toNat = nn.toNat))
  | .sneVxNn x nn => some (decide ((s.getV x).toNat ≠ nn.toNat))
  | .seVxVy x y => some (decide ((s.getV x).toNat = (s.getV y).toNat))
  | .sneVxVy x y => some (decide ((s.getV x).toNat ≠ (s.getV y).toNat))
  | .skp x => if (s.getV x).toNat ≤ 15 then some (keys.getLsbD (s.getV x).toNat) else none
  | .sknp x => if (s.getV x).toNat ≤ 15 then some (!keys.getLsbD (s.getV x).toNat) else none
  | _ => none

/-- The unknown words of each class, as R77 lists them. -/
def InUnknownClass (w : Word) : UnknownClass → Prop
  | .family0 => slice w 15 12 = 0x0 ∧ w ≠ 0x00E0 ∧ w ≠ 0x00EE
  | .family5 => slice w 15 12 = 0x5 ∧ slice w 3 0 ≠ 0
  | .family8 => slice w 15 12 = 0x8 ∧ slice w 3 0 ∈ [0x8, 0x9, 0xA, 0xB, 0xC, 0xD, 0xF]
  | .family9 => slice w 15 12 = 0x9 ∧ slice w 3 0 ≠ 0
  | .familyE => slice w 15 12 = 0xE ∧ slice w 7 0 ∉ [0x9E, 0xA1]
  | .familyF => slice w 15 12 = 0xF ∧ slice w 7 0 ∉ [0x07, 0x15, 0x18, 0x1E, 0x33, 0x55, 0x65]

end Sys2Proof.Claims

open Sys2Proof.Claims

/-! ### Encoding -/

/-- Words of the opcode map, one per format and one per unknown class, decode to what they stand for (R76, R77). -/
def Obligations.WordsOfTheOpcodeMapDecode : Prop :=
  decode 0x00E0 = .ok .cls ∧ decode 0x00EE = .ok .ret ∧ decode 0x1208 = .ok (.jp 0x208) ∧
  decode 0x3310 = .ok (.seVxNn 3 0x10) ∧ decode 0x5120 = .ok (.seVxVy 1 2) ∧ decode 0x8AB4 = .ok (.addVxVy 10 11) ∧
  decode 0xD235 = .ok (.drw 2 3 5) ∧ decode 0xE29E = .ok (.skp 2) ∧ decode 0xF265 = .ok (.ldVxMemI 2) ∧
  decode 0x01E0 = .error .family0 ∧ decode 0x5121 = .error .family5 ∧ decode 0x800F = .error .family8 ∧
  decode 0x9121 = .error .family9 ∧ decode 0xE09F = .error .familyE ∧ decode 0xF00A = .error .familyF

/-- Every well-formed instruction is what its own word, and its own two bytes before any others, decode to (R70,
R71, R72, R74). -/
def Obligations.DecodeInvertsEncode : Prop :=
  ∀ (i : Instr) (rest : List Byte), i.wf = true →
    decode (encode i) = .ok i ∧ decodeBytes (encodeBytes i ++ rest) = .ok (i, rest)

/-- A word decodes to a well-formed instruction whose encoding is that word: no bit is dropped and no two words
mean one instruction (R71, R72, R74). -/
def Obligations.EncodeInvertsDecode : Prop :=
  ∀ (w : Word) (i : Instr), decode w = .ok i → i.wf = true ∧ encode i = w

/-- The decoder and the match and mask columns of spec/opcode_table.json agree: a word is unknown iff no row covers
it, and otherwise the row that covers it is the row of the decoded instruction. -/
def Obligations.DecoderAgreesWithOpcodeTable : Prop :=
  ∀ w : Word,
    ((∃ c, decode w = .error c) ↔ ∀ row ∈ opcodeTable, ¬row.covers w) ∧
    ∀ i, decode w = .ok i → ∀ row ∈ opcodeTable, row.covers w → row.mnemonic = i.mnemonic

/-- A word is rejected under the name of a class iff R77 lists it in that class (the spec's decisions D10, D11). -/
def Obligations.UnknownWordsAreThoseListed : Prop :=
  ∀ (w : Word) (c : UnknownClass), decode w = .error c ↔ InUnknownClass w c

/-! ### One operation -/

/-- When the next operation is a Step and the two bytes at the PC exist and decode to an instruction, `step` is the
execute phase of that instruction, in the state with PC advanced by 2 and the Step latched, with the latch idle
again afterwards (R100, R101). The operation is the first of the schedule; a Step whose inputs the schedule does not
name runs with free values (the model's form of a free input, log 4). -/
def Obligations.StepRunsTheDecodedInstruction : Prop :=
  ∀ (s : State) (i : Instr), s.status = .running → s.PC + 1 < s.cfg.memSize → decode (s.wordAt s.PC) = .ok i →
    (∀ keys rnd rest, s.ops = .step keys rnd :: rest →
      step s = retired (exec i
        { s with PC := s.PC + 2, ops := rest, cur := ⟨s.PC, some (s.wordAt s.PC), keys, rnd⟩ })) ∧
    (∀ rest, s.ops = .stepAny :: rest →
      step s = retired (exec i
        { s with
          PC := s.PC + 2
          ops := rest
          draws := s.draws + 1
          cur := ⟨s.PC, some (s.wordAt s.PC), Config.freeKeys s.draws, Config.freeRnd s.draws⟩ }))

/-- An unknown word is reported once, with its address, and skipped; nothing else changes (R232; the report's fields
are the spec's decision D12). -/
def Obligations.UnknownWordIsReportedAndSkipped : Prop :=
  ∀ (s : State) (keys : BitVec 16) (rnd : Byte) (c : UnknownClass), s.status = .running →
    (nextOp s).1 = .step keys rnd → s.PC + 1 < s.cfg.memSize → decode (s.wordAt s.PC) = .error c →
    ∃ t, step s = .next t ∧ t.PC = s.PC + 2 ∧ t.diag = s.diag ++ [.unknownOpcode s.PC (s.wordAt s.PC)] ∧
      t.cur = Latch.idle ∧ UnchangedBut [.PC, .diag, .host, .cur] s t

/-- A Step whose fetch needs an address that does not exist faults with FETCH_OOB on the lowest such address, and
changes nothing but the status (R100, R227; fault entry is the spec's decision D7, the record D8). -/
def Obligations.FetchOutOfBoundsFaults : Prop :=
  ∀ (s : State) (keys : BitVec 16) (rnd : Byte), s.status = .running → (nextOp s).1 = .step keys rnd →
    s.cfg.memSize ≤ s.PC + 1 →
    ∃ t, step s = .next t ∧
      t.status = .faulted ⟨.fetchOob (if s.cfg.memSize ≤ s.PC then s.PC else s.PC + 1), s.PC, none⟩ ∧
      t.cur = Latch.idle ∧ UnchangedBut [.status, .host, .cur] s t

/-- In Faulted no operation is enabled (R36, R226; the spec's decision D7): `step` stops. -/
def Obligations.FaultedStateHasNoTransition : Prop :=
  ∀ (s : State) (r : FaultRecord), s.status = .faulted r → step s = .fault (.notEnabled r)

/-- In Running every operation answers a next state: no word, operand or address makes the machine stop or be
refused (R77, R101, R226). -/
def Obligations.RunningStateAlwaysSteps : Prop :=
  ∀ s : State, s.status = .running → ∃ t, step s = .next t

/-- An operation that faults leaves every component as it was before it but the status, whose record names the
instruction's address, and its word unless the fetch itself faulted (R226; the spec's decision D7). -/
def Obligations.FaultIsPrecise : Prop :=
  ∀ (s t : State) (r : FaultRecord), step s = .next t → t.status = .faulted r →
    UnchangedBut [.status, .host, .cur] s t ∧ r.pc = s.PC ∧
    ((∃ a, r.cause = .fetchOob a) → r.word = none) ∧
    ((∀ a, r.cause ≠ .fetchOob a) → r.word = some (s.wordAt s.PC))

/-- The invariant holds in the state after any operation from a state in which it holds: the canonical memory within
MEM_SIZE, the PC and return-address bounds of R28, the capacity of R8, an idle latch, a truthful log. -/
def Obligations.StepKeepsInvariant : Prop :=
  ∀ s t : State, s.Inv → step s = .next t → t.Inv

/-- The invariant holds after reset. -/
def Obligations.ResetMeetsInvariant : Prop := State.reset.Inv

/-- What reset leaves (R24, R26, R30, R31, R32, R34, R35, R36, R37; the zeros are the spec's decision D22, the start
address D28). -/
def Obligations.ResetValues : Prop :=
  (∀ r, State.reset.getV r = 0) ∧ State.reset.I = 0 ∧ State.reset.PC = 0x200 ∧ State.reset.S = [] ∧
  State.reset.DT = 0 ∧ State.reset.ST = 0 ∧ (∀ a, State.reset.byteAt a = 0) ∧
  (∀ p, pixelOn State.reset.FB p = false) ∧ State.reset.status = .running ∧ State.reset.diag = []

/-- Construct places the image at 0x200 with 0x00 around it and leaves every other component at its reset value; an
image longer than MEM_SIZE - 0x200 is refused (R250, R251; the spec's decisions D22, D23). -/
def Obligations.ConstructPlacesTheImage : Prop :=
  ∀ (cfg : Config) (rom : List Byte), cfg.wf = true →
    (rom.length ≤ cfg.memSize - 0x200 →
      ∃ s, construct cfg rom = .ok s ∧ s.cfg = cfg ∧
        (∀ a, s.byteAt a = if 0x200 ≤ a ∧ a < 0x200 + rom.length then rom.getD (a - 0x200) 0 else 0) ∧
        UnchangedBut [.mem, .cfg] State.reset s) ∧
    (cfg.memSize - 0x200 < rom.length → construct cfg rom = .error .romTooLarge)

/-- Every constructed state meets the invariant. -/
def Obligations.ConstructMeetsInvariant : Prop :=
  ∀ (cfg : Config) (rom : List Byte) (s : State), cfg.wf = true → construct cfg rom = .ok s → s.Inv

/-- Diagnostics are write-only: an operation appends at most one event, and what the log held changes nothing else
(R37, R233; the spec's decision D12). -/
def Obligations.DiagnosticsAreWriteOnly : Prop :=
  ∀ (s t : State) (d : List DiagEvent), step s = .next t →
    ∃ es, es.length ≤ 1 ∧ t.diag = s.diag ++ es ∧ step { s with diag := d } = .next { t with diag := d ++ es }

/-- ST is read only by Tick: what it holds changes nothing but its own later values (R32). -/
def Obligations.SoundTimerIsNeverRead : Prop :=
  ∀ (s t : State) (b : Byte), step s = .next t → ∃ b', step { s with ST := b } = .next { t with ST := b' }

/-- Tick decrements each timer that is not zero and changes nothing else (R223). -/
def Obligations.TickCountsBothTimersDown : Prop :=
  ∀ (s : State) (rest : List HostOp), s.status = .running → s.ops = .tick :: rest →
    ∃ t, step s = .next t ∧ t.DT.toNat = s.DT.toNat - 1 ∧ t.ST.toNat = s.ST.toNat - 1 ∧ t.ops = rest ∧
      t.draws = s.draws ∧ UnchangedBut [.DT, .ST, .host] s t

/-- Between writes by FX15 the delay timer does not rise, falls by at most one per operation, and falls only by a
Tick (R254). -/
def Obligations.DelayTimerFallsOnlyByTicks : Prop :=
  ∀ s t : State, step s = .next t →
    (∃ x keys rnd, decode (s.wordAt s.PC) = .ok (.ldDtVx x) ∧ (nextOp s).1 = .step keys rnd) ∨
    (t.DT.toNat ≤ s.DT.toNat ∧ s.DT.toNat ≤ t.DT.toNat + 1 ∧ (t.DT ≠ s.DT → (nextOp s).1 = .tick))

/-- Every register an instruction is not listed to write keeps its value: the writers of R22 and the flag writers of
R25, over all 32 instructions. -/
def Obligations.OnlyListedRegistersAreWritten : Prop :=
  ∀ (i : Instr) (s t : State) (r : Reg), exec i s = .next t → mayWriteV s.cfg i r = false → t.getV r = s.getV r

/-- The writers of every other component (R26, R31, R32, R35, R36, R37, R57), over all 32 instructions, the fault
entry apart, which writes the status and the PC. -/
def Obligations.OnlyListedInstructionsWrite : Prop :=
  ∀ (i : Instr) (s t : State), exec i s = .next t →
    (t.DT ≠ s.DT → ∃ x, i = .ldDtVx x) ∧
    (t.ST ≠ s.ST → ∃ x, i = .ldStVx x) ∧
    (t.S ≠ s.S → i = .ret ∨ ∃ nnn, i = .call nnn) ∧
    (t.diag ≠ s.diag → ∃ nnn, i = .call nnn) ∧
    (t.FB ≠ s.FB → i = .cls ∨ ∃ x y n, i = .drw x y n) ∧
    ((∃ a, t.byteAt a ≠ s.byteAt a) → ∃ x, i = .ldBVx x ∨ i = .ldMemIVx x) ∧
    (t.I ≠ s.I → (∃ nnn, i = .ldINnn nnn) ∨ ∃ x, i = .addIVx x ∨
      (s.cfg.qMemIncrI = true ∧ (i = .ldMemIVx x ∨ i = .ldVxMemI x))) ∧
    (t.PC ≠ s.PC → t.status = .running →
      i = .ret ∨ (∃ nnn, i = .jp nnn ∨ i = .call nnn ∨ i = .jpV0Nnn nnn) ∨
      skipCondition s.cur.keys s i = some true)

/-- The configuration is fixed for a run (R33), and the execute phase touches neither the schedule nor the Step's
latch (R206: the inputs are constant within a Step). -/
def Obligations.ConfigurationAndInputsAreFixed : Prop :=
  (∀ s t : State, step s = .next t → t.cfg = s.cfg) ∧
  ∀ (i : Instr) (s t : State), exec i s = .next t →
    t.cfg = s.cfg ∧ t.ops = s.ops ∧ t.draws = s.draws ∧ t.cur = s.cur

/-- Bytes stored by FX55 are what a later fetch of their addresses assembles, high byte first (R53, R61; coherence is
the spec's decision D25). -/
def Obligations.FetchSeesStoredBytes : Prop :=
  ∀ (s : State) (x k k' : Reg), s.I.toNat + x.val < s.cfg.memSize → k'.val = k.val + 1 → k' ≤ x →
    ∃ t u, exec (.ldMemIVx x) s = .next t ∧
      fetch (t.setPC (s.I.toNat + k.val)) = .ok (assemble (s.getV k) (s.getV k'), u)

/-! ### Control transfer -/

/-- 00EE: PC takes the last element of S, which is removed; with S empty it faults with STACK_UNDERFLOW (R102,
R228). -/
def Obligations.RetPopsTheReturnAddress : Prop :=
  decode 0x00EE = .ok .ret ∧
  (∀ (s : State) (l : List Nat) (a : Nat), s.S = l ++ [a] →
    ∃ t, exec .ret s = .next t ∧ t.PC = a ∧ t.S = l ∧ UnchangedBut [.PC, .S] s t) ∧
  ∀ s : State, s.S = [] → ∃ t, exec .ret s = .next t ∧ FaultCauseIs .stackUnderflow t

/-- 1NNN: PC <- NNN, nothing else; from a target without a whole word the next fetch faults (R103). -/
def Obligations.JpSetsPc : Prop :=
  (∀ w : Word, slice w 15 12 = 0x1 → decode w = .ok (.jp (slice w 11 0))) ∧
  ∀ (s : State) (nnn : Nat),
    ∃ t, exec (.jp nnn) s = .next t ∧ t.PC = nnn ∧ UnchangedBut [.PC] s t ∧
      (s.cfg.memSize ≤ nnn + 1 → ∃ addr, fetch t = .error addr)

/-- 2NNN: the advanced PC is pushed, PC <- NNN, and a depth above 16 is reported (R104; STACK_CAPACITY and the report
are the spec's decisions D13, D14). -/
def Obligations.CallPushesTheReturnAddress : Prop :=
  ∀ (s : State) (nnn : Nat), s.cfg.stackCapacity ≠ some s.S.length →
    ∃ t, exec (.call nnn) s = .next t ∧ t.PC = nnn ∧ t.S = s.S ++ [s.PC] ∧
      (16 < t.S.length → t.diag = s.diag ++ [.stackDeep t.S.length]) ∧ (t.S.length ≤ 16 → t.diag = s.diag) ∧
      UnchangedBut [.PC, .S, .diag] s t

/-- 00EE after 2NNN returns to the instruction after the call, with the stack as before (R102, R104, the source's
section 8). -/
def Obligations.RetAfterCallReturns : Prop :=
  ∀ (s : State) (nnn : Nat), s.cfg.stackCapacity ≠ some s.S.length →
    ∃ t u, exec (.call nnn) s = .next t ∧ exec .ret t = .next u ∧ u.PC = s.PC ∧ u.S = s.S ∧
      UnchangedBut [.diag] s u

/-- BNNN: PC <- NNN + V0, with no mod and no mask (R105; the absence of a mask is the spec's decision D4). -/
def Obligations.JpV0AddsV0 : Prop :=
  (∀ w : Word, slice w 15 12 = 0xB → decode w = .ok (.jpV0Nnn (slice w 11 0))) ∧
  ∀ (s : State) (nnn : Nat),
    ∃ t, exec (.jpV0Nnn nnn) s = .next t ∧ t.PC = nnn + (s.getV 0).toNat ∧ UnchangedBut [.PC] s t

/-- 3XNN skips iff V[x] = NN, 4XNN iff V[x] != NN (R108, R109). -/
def Obligations.SkipsOnImmediate : Prop :=
  (∀ w : Word, slice w 15 12 = 0x3 → decode w = .ok (.seVxNn (fieldX w) (fieldNN w))) ∧
  (∀ w : Word, slice w 15 12 = 0x4 → decode w = .ok (.sneVxNn (fieldX w) (fieldNN w))) ∧
  ∀ (s : State) (x : Reg) (nn : Byte),
    (∃ t, exec (.seVxNn x nn) s = .next t ∧ SkipsWhen ((s.getV x).toNat = nn.toNat) s t) ∧
    (∃ t, exec (.sneVxNn x nn) s = .next t ∧ SkipsWhen ((s.getV x).toNat ≠ nn.toNat) s t)

/-- 5XY0 skips iff V[x] = V[y], 9XY0 iff V[x] != V[y]; with bits 3-0 other than 0 both words are unknown (R110, R111;
the full-pattern match is the spec's decision D10). -/
def Obligations.SkipsOnRegisters : Prop :=
  (∀ w : Word, slice w 15 12 = 0x5 →
    decode w = if slice w 3 0 = 0 then .ok (.seVxVy (fieldX w) (fieldY w)) else .error .family5) ∧
  (∀ w : Word, slice w 15 12 = 0x9 →
    decode w = if slice w 3 0 = 0 then .ok (.sneVxVy (fieldX w) (fieldY w)) else .error .family9) ∧
  ∀ (s : State) (x y : Reg),
    (∃ t, exec (.seVxVy x y) s = .next t ∧ SkipsWhen ((s.getV x).toNat = (s.getV y).toNat) s t) ∧
    (∃ t, exec (.sneVxVy x y) s = .next t ∧ SkipsWhen ((s.getV x).toNat ≠ (s.getV y).toNat) s t)

/-- A whole Step of a skip instruction leaves PC four bytes on when its condition holds and two otherwise; the
skipped word, whatever it is, reports nothing and changes nothing (R106). -/
def Obligations.SkipAdvancesByFourOrTwo : Prop :=
  ∀ (s : State) (keys : BitVec 16) (rnd : Byte) (rest : List HostOp) (i : Instr) (b : Bool), s.status = .running →
    s.ops = .step keys rnd :: rest → s.PC + 1 < s.cfg.memSize → decode (s.wordAt s.PC) = .ok i →
    skipCondition keys s i = some b →
    ∃ t, step s = .next t ∧ t.PC = (if b then s.PC + 4 else s.PC + 2) ∧ UnchangedBut [.PC, .host, .cur] s t

/-! ### Register and ALU instructions -/

/-- 6XNN: V[x] <- NN, exactly (R130). -/
def Obligations.LoadImmediateIsExact : Prop :=
  (∀ w : Word, slice w 15 12 = 0x6 → decode w = .ok (.ldVxNn (fieldX w) (fieldNN w))) ∧
  ∀ (s : State) (x : Reg) (nn : Byte), ∃ t, exec (.ldVxNn x nn) s = .next t ∧ WritesReg x nn.toNat s t

/-- 7XNN: V[x] <- (V[x] + NN) mod 256, and no flag: with x other than 15, VF keeps its value (R131). -/
def Obligations.AddImmediateWrapsWithoutFlag : Prop :=
  (∀ w : Word, slice w 15 12 = 0x7 → decode w = .ok (.addVxNn (fieldX w) (fieldNN w))) ∧
  ∀ (s : State) (x : Reg) (nn : Byte),
    ∃ t, exec (.addVxNn x nn) s = .next t ∧ WritesReg x (((s.getV x).toNat + nn.toNat) % 256) s t

/-- 8XY0: V[x] <- V[y] (R133). -/
def Obligations.RegisterMoveCopies : Prop :=
  (∀ w : Word, slice w 15 12 = 0x8 → slice w 3 0 = 0x0 → decode w = .ok (.ldVxVy (fieldX w) (fieldY w))) ∧
  ∀ (s : State) (x y : Reg), ∃ t, exec (.ldVxVy x y) s = .next t ∧ WritesReg x (s.getV y).toNat s t

/-- 8XY1, 8XY2, 8XY3: bitwise OR, AND and XOR; VF ends as 0 under `Q_LOGIC_VF_RESET` and is otherwise no flag (R134,
R135, R136; the quirk's value is the spec's decision D15, from general knowledge, log 10). -/
def Obligations.LogicIsBitwise : Prop :=
  ∀ (s : State) (x y : Reg),
    (∃ t, exec (.or x y) s = .next t ∧ WritesLogic (fun a b => a || b) x y s t) ∧
    (∃ t, exec (.and x y) s = .next t ∧ WritesLogic (fun a b => a && b) x y s t) ∧
    (∃ t, exec (.xor x y) s = .next t ∧ WritesLogic (fun a b => a != b) x y s t)

/-- 8XY4: the sum mod 256, then VF = 1 iff the sum exceeds 255, operands read before either write (R138). -/
def Obligations.AddRegistersSetsCarry : Prop :=
  (∀ w : Word, slice w 15 12 = 0x8 → slice w 3 0 = 0x4 → decode w = .ok (.addVxVy (fieldX w) (fieldY w))) ∧
  ∀ (s : State) (x y : Reg),
    ∃ t, exec (.addVxVy x y) s = .next t ∧
      WritesResultThenFlag x (((s.getV x).toNat + (s.getV y).toNat) % 256)
        (if 255 < (s.getV x).toNat + (s.getV y).toNat then 1 else 0) s t

/-- 8XY5 and 8XY7: the difference mod 256, then VF = 1 iff no borrow occurred, operands read before either write
(R139, R140). -/
def Obligations.SubtractSetsNoBorrow : Prop :=
  (∀ w : Word, slice w 15 12 = 0x8 → slice w 3 0 = 0x5 → decode w = .ok (.sub (fieldX w) (fieldY w))) ∧
  (∀ w : Word, slice w 15 12 = 0x8 → slice w 3 0 = 0x7 → decode w = .ok (.subn (fieldX w) (fieldY w))) ∧
  ∀ (s : State) (x y : Reg),
    (∃ t, exec (.sub x y) s = .next t ∧
      WritesResultThenFlag x ((256 + (s.getV x).toNat - (s.getV y).toNat) % 256)
        (if (s.getV y).toNat ≤ (s.getV x).toNat then 1 else 0) s t) ∧
    (∃ t, exec (.subn x y) s = .next t ∧
      WritesResultThenFlag x ((256 + (s.getV y).toNat - (s.getV x).toNat) % 256)
        (if (s.getV x).toNat ≤ (s.getV y).toNat then 1 else 0) s t)

/-- 8XY6 and 8XYE: a shift by one of V[y], or of V[x] under `Q_SHIFT_VX`, then VF = the bit shifted out (R142, R143;
the shift source is the spec's decision D15). -/
def Obligations.ShiftsSetTheBitShiftedOut : Prop :=
  ∀ (s : State) (x y : Reg) (v : Nat),
    v = (s.getV (if s.cfg.qShiftVx = true then x else y)).toNat →
    (∃ t, exec (.shr x y) s = .next t ∧ WritesResultThenFlag x (v / 2) (v % 2) s t) ∧
    (∃ t, exec (.shl x y) s = .next t ∧
      WritesResultThenFlag x (v * 2 % 256) (if 128 ≤ v then 1 else 0) s t)

/-- CXNN: V[x] <- rnd AND NN, bit by bit, for every random byte the Step may be given (R145; `rnd` as a free input is
the spec's decision D21). -/
def Obligations.RandomIsMasked : Prop :=
  ∀ (s : State) (x : Reg) (nn : Byte),
    ∃ t, exec (.rnd x nn) s = .next t ∧
      (∀ k < 8, (t.getV x).getLsbD k = (s.cur.rnd.getLsbD k && nn.getLsbD k)) ∧
      (∀ r, r ≠ x → t.getV r = s.getV r) ∧ UnchangedBut [.V] s t

/-! ### Index register and memory -/

/-- ANNN: I <- NNN (R160). -/
def Obligations.LoadIndexSetsI : Prop :=
  (∀ w : Word, slice w 15 12 = 0xA → decode w = .ok (.ldINnn (slice w 11 0))) ∧
  ∀ (s : State) (nnn : Nat), nnn < 0x1000 →
    ∃ t, exec (.ldINnn nnn) s = .next t ∧ t.I.toNat = nnn ∧ UnchangedBut [.I] s t

/-- FX1E: I <- (I + V[x]) mod 65536, without flag, check or fault (R161). -/
def Obligations.AddIndexWrapsWithoutFlag : Prop :=
  (∀ w : Word, slice w 15 12 = 0xF → slice w 7 0 = 0x1E → decode w = .ok (.addIVx (fieldX w))) ∧
  ∀ (s : State) (x : Reg),
    ∃ t, exec (.addIVx x) s = .next t ∧ t.I.toNat = (s.I.toNat + (s.getV x).toNat) % 65536 ∧
      UnchangedBut [.I] s t

/-- FX33: hundreds, tens and ones of V[x] at I, I+1, I+2, every other byte unchanged; WRITE_OOB when I + 2 is not an
address (R163). -/
def Obligations.BcdStoresThreeDigits : Prop :=
  (∀ w : Word, slice w 15 12 = 0xF → slice w 7 0 = 0x33 → decode w = .ok (.ldBVx (fieldX w))) ∧
  (∀ (s : State) (x : Reg), s.I.toNat + 2 < s.cfg.memSize →
    ∃ t, exec (.ldBVx x) s = .next t ∧
      (t.byteAt s.I.toNat).toNat = (s.getV x).toNat / 100 ∧
      (t.byteAt (s.I.toNat + 1)).toNat = (s.getV x).toNat / 10 % 10 ∧
      (t.byteAt (s.I.toNat + 2)).toNat = (s.getV x).toNat % 10 ∧
      (∀ a, a < s.I.toNat ∨ s.I.toNat + 2 < a → t.byteAt a = s.byteAt a) ∧ UnchangedBut [.mem] s t) ∧
  ∀ (s : State) (x : Reg), s.cfg.memSize ≤ s.I.toNat + 2 →
    ∃ t a b c, exec (.ldBVx x) s = .next t ∧ FaultCauseIs (.writeOob a b c) t

/-- FX55: V[0] .. V[X] at I .. I+X, every other byte unchanged; I moves past them only under `Q_MEM_INCR_I` (R167;
the quirk's amount is the spec's decision D15, from general knowledge, log 10). -/
def Obligations.StoreSavesRegisters : Prop :=
  ∀ (s : State) (x : Reg), s.I.toNat + x.val < s.cfg.memSize →
    ∃ t, exec (.ldMemIVx x) s = .next t ∧
      (∀ k : Reg, k ≤ x → t.byteAt (s.I.toNat + k.val) = s.getV k) ∧
      (∀ a, a < s.I.toNat ∨ s.I.toNat + x.val < a → t.byteAt a = s.byteAt a) ∧
      t.I.toNat = (if s.cfg.qMemIncrI = true then (s.I.toNat + x.val + 1) % 65536 else s.I.toNat) ∧
      UnchangedBut [.mem, .I] s t

/-- FX65: V[0] .. V[X] from I .. I+X, every other register and all of memory unchanged; I moves past them only under
`Q_MEM_INCR_I` (R168; the quirk's amount is the spec's decision D15, from general knowledge, log 10). -/
def Obligations.LoadRestoresRegisters : Prop :=
  ∀ (s : State) (x : Reg), s.I.toNat + x.val < s.cfg.memSize →
    ∃ t, exec (.ldVxMemI x) s = .next t ∧
      (∀ k : Reg, k ≤ x → t.getV k = s.byteAt (s.I.toNat + k.val)) ∧
      (∀ k : Reg, x < k → t.getV k = s.getV k) ∧
      t.I.toNat = (if s.cfg.qMemIncrI = true then (s.I.toNat + x.val + 1) % 65536 else s.I.toNat) ∧
      UnchangedBut [.V, .I] s t

/-- DXYN, FX33, FX55 and FX65 whose range reaches an address that does not exist fault before anything is written,
on the lowest such address, which is never wrapped (R162, R229; the spec's decisions D6, D7, D8). -/
def Obligations.OutOfRangeAccessFaults : Prop :=
  ∀ (s : State) (x y : Reg),
    (∀ n, 0 < n → s.cfg.memSize ≤ s.I.toNat + n - 1 →
      ∃ t, exec (.drw x y n) s = .next t ∧
        FaultedBy (.readOob (max s.I.toNat s.cfg.memSize) s.I.toNat n) s t) ∧
    (s.cfg.memSize ≤ s.I.toNat + 2 →
      ∃ t, exec (.ldBVx x) s = .next t ∧
        FaultedBy (.writeOob (max s.I.toNat s.cfg.memSize) s.I.toNat 3) s t) ∧
    (s.cfg.memSize ≤ s.I.toNat + x.val →
      (∃ t, exec (.ldMemIVx x) s = .next t ∧
        FaultedBy (.writeOob (max s.I.toNat s.cfg.memSize) s.I.toNat (x.val + 1)) s t) ∧
      (∃ t, exec (.ldVxMemI x) s = .next t ∧
        FaultedBy (.readOob (max s.I.toNat s.cfg.memSize) s.I.toNat (x.val + 1)) s t))

/-! ### Display -/

/-- 00E0: every pixel off, nothing else (R180). -/
def Obligations.ClsClearsEveryPixel : Prop :=
  decode 0x00E0 = .ok .cls ∧
  ∀ s : State, ∃ t, exec .cls s = .next t ∧ (∀ p, pixelOn t.FB p = false) ∧ UnchangedBut [.FB] s t

/-- DXYN flips exactly the cells its sprite covers and sets VF to 1 iff one of them was on, VF being written last and
the coordinates read before it (R181, R182, R183, R184; the edge policy, the bit order and N = 0 are the spec's
decisions D16, D17, D18, the bit order from general knowledge, log 10). -/
def Obligations.DrawXorsCoveredPixels : Prop :=
  ∀ (s : State) (x y : Reg) (n : Nat), n < 16 → (n = 0 ∨ s.I.toNat + n ≤ s.cfg.memSize) →
    ∃ t, exec (.drw x y n) s = .next t ∧
      (∀ p, SpriteCovers s x y n p → pixelOn t.FB p = !pixelOn s.FB p) ∧
      (∀ p, ¬SpriteCovers s x y n p → pixelOn t.FB p = pixelOn s.FB p) ∧
      ((∃ p, SpriteCovers s x y n p ∧ pixelOn s.FB p = true) → t.getV 15 = 1) ∧
      ((¬∃ p, SpriteCovers s x y n p ∧ pixelOn s.FB p = true) → t.getV 15 = 0) ∧
      (∀ r, r ≠ 15 → t.getV r = s.getV r) ∧ UnchangedBut [.FB, .V] s t

/-- No two pixels of one sprite land on the same cell, under either edge policy (R184, an inference the spec marks as
its own). -/
def Obligations.SpriteCellsAreDistinct : Prop :=
  ∀ (edge : DrawEdge) (m : Memory) (base n x0 y0 : Nat), n < 16 → (spritePixels edge m base n x0 y0).Nodup

/-- A sprite drawn twice at the same place leaves the framebuffer as it was (R181's corner case), and the second draw
reports a collision iff some cell it covers was off before the first. The second clause is the model's reading, DEDUCED
from R181's pseudocode and R184 (log 12): R181's corner case says that the second draw always reports one, which
`SecondDrawAlwaysCollides` states. Where the cells lie rests on the spec's decisions D16 and D17 (log 10). With X or
Y = 15 the first draw itself moves the place, since it writes VF; that form is not a draw at the same place. -/
def Obligations.DoubleDrawRestoresTheScreen : Prop :=
  ∀ (s : State) (x y : Reg) (n : Nat), n < 16 → (n = 0 ∨ s.I.toNat + n ≤ s.cfg.memSize) → x ≠ 15 → y ≠ 15 →
    ∃ t u, exec (.drw x y n) s = .next t ∧ exec (.drw x y n) t = .next u ∧
      (∀ p, pixelOn u.FB p = pixelOn s.FB p) ∧
      (u.getV 15 = 1 ↔ ∃ p, SpriteCovers s x y n p ∧ pixelOn s.FB p = false)

/-- R181's corner case taken literally: the second of two draws reports VF = 1 whenever the sprite has at least one
set pixel that is not dropped. The pseudocode of the same rule refutes it where every covered cell was on before the
first draw (log 12). -/
def Obligations.SecondDrawAlwaysCollides : Prop :=
  ∀ (s : State) (x y : Reg) (n : Nat) (t u : State) (p : Pixel), n < 16 → x ≠ 15 → y ≠ 15 →
    s.I.toNat + n ≤ s.cfg.memSize → SpriteCovers s x y n p → exec (.drw x y n) s = .next t →
    exec (.drw x y n) t = .next u → u.getV 15 = 1

/-! ### Keys and timers -/

/-- EX9E skips iff key V[x] is down, EXA1 iff it is up; with V[x] above 15 both fault with KEY_INDEX_RANGE (R200,
R201). -/
def Obligations.KeySkipsConsultKeyVx : Prop :=
  (∀ w : Word, slice w 15 12 = 0xE → slice w 7 0 = 0x9E → decode w = .ok (.skp (fieldX w))) ∧
  (∀ w : Word, slice w 15 12 = 0xE → slice w 7 0 = 0xA1 → decode w = .ok (.sknp (fieldX w))) ∧
  (∀ (s : State) (x : Reg), (s.getV x).toNat ≤ 15 →
    (∃ t, exec (.skp x) s = .next t ∧ SkipsWhen (s.cur.keys.getLsbD (s.getV x).toNat = true) s t) ∧
    (∃ t, exec (.sknp x) s = .next t ∧ SkipsWhen (s.cur.keys.getLsbD (s.getV x).toNat = false) s t)) ∧
  ∀ (s : State) (x : Reg), 15 < (s.getV x).toNat →
    (∃ t, exec (.skp x) s = .next t ∧ FaultCauseIs (.keyIndexRange (s.getV x).toNat) t) ∧
    (∃ t, exec (.sknp x) s = .next t ∧ FaultCauseIs (.keyIndexRange (s.getV x).toNat) t)

/-- FX07: V[x] <- DT, DT unchanged; FX15: DT <- V[x] (R203, R204). -/
def Obligations.DelayTimerTransfers : Prop :=
  (∀ w : Word, slice w 15 12 = 0xF → slice w 7 0 = 0x07 → decode w = .ok (.ldVxDt (fieldX w))) ∧
  (∀ w : Word, slice w 15 12 = 0xF → slice w 7 0 = 0x15 → decode w = .ok (.ldDtVx (fieldX w))) ∧
  ∀ (s : State) (x : Reg),
    (∃ t, exec (.ldVxDt x) s = .next t ∧ WritesReg x s.DT.toNat s t) ∧
    (∃ t, exec (.ldDtVx x) s = .next t ∧ t.DT = s.getV x ∧ UnchangedBut [.DT] s t)

/-- FX18: ST <- V[x], nothing else (R205; that ST has no other effect is the spec's decision D26). -/
def Obligations.SoundTimerTransfer : Prop :=
  ∀ (s : State) (x : Reg), ∃ t, exec (.ldStVx x) s = .next t ∧ t.ST = s.getV x ∧ UnchangedBut [.ST] s t

/-- The records of the faults of the stack and the key index: the cause, the instruction's address and word; the PC
is back at that address and nothing else changed (R225, R226; the spec's decisions D7, D8, D13, D19). -/
def Obligations.StackAndKeyFaultRecords : Prop :=
  (∀ s : State, s.S = [] → ∃ t, exec .ret s = .next t ∧ FaultedBy .stackUnderflow s t) ∧
  (∀ (s : State) (nnn : Nat), s.cfg.stackCapacity = some s.S.length →
    ∃ t, exec (.call nnn) s = .next t ∧ FaultedBy (.stackOverflow s.S.length) s t) ∧
  ∀ (s : State) (x : Reg), 15 < (s.getV x).toNat →
    (∃ t, exec (.skp x) s = .next t ∧ FaultedBy (.keyIndexRange (s.getV x).toNat) s t) ∧
    (∃ t, exec (.sknp x) s = .next t ∧ FaultedBy (.keyIndexRange (s.getV x).toNat) s t)

/-! ### No operation -/

/-- While no operation is issued the state stays unchanged (R241), and no instruction waits: in Running one step answers
a next state with the first operation taken off the schedule. What the operation does is stated elsewhere
(`StepRunsTheDecodedInstruction`, `UnknownWordIsReportedAndSkipped`, `FetchOutOfBoundsFaults`,
`TickCountsBothTimersDown`). That a step without an operation is a step of the model is its own form (log 3), and that a
Step that faults is taken off too is its own choice (log 7). -/
def Obligations.StateStaysWhileNoOperationIsIssued : Prop :=
  (∀ s : State, s.status = .running → s.ops = [] → step s = .next s) ∧
  ∀ (s : State) (op : HostOp) (rest : List HostOp), s.status = .running → s.ops = op :: rest →
    ∃ t, step s = .next t ∧ t.ops = rest
end

