-- ==== Sys2Proof/Laws/Decode.lean ====
section
/-! SUPPORT. Fields of words, and that the decoder answers well-formed instructions only. -/

namespace Sys2Proof

theorem slice_15_12 (w : Word) : slice w 15 12 = w.toNat / 4096 % 16 := rfl
theorem slice_15_8 (w : Word) : slice w 15 8 = w.toNat / 256 % 256 := rfl
theorem slice_11_8 (w : Word) : slice w 11 8 = w.toNat / 256 % 16 := rfl
theorem slice_7_4 (w : Word) : slice w 7 4 = w.toNat / 16 % 16 := rfl
theorem slice_3_0 (w : Word) : slice w 3 0 = w.toNat % 16 := by simp [slice]
theorem slice_7_0 (w : Word) : slice w 7 0 = w.toNat % 256 := by simp [slice]
theorem slice_11_0 (w : Word) : slice w 11 0 = w.toNat % 4096 := by simp [slice]

theorem fieldN_lt (w : Word) : fieldN w < 16 := by rw [fieldN, slice_3_0]; omega
theorem fieldNNN_lt (w : Word) : fieldNNN w < 0x1000 := by rw [fieldNNN, slice_11_0]; omega
theorem fieldF_lt (w : Word) : fieldF w < 16 := by rw [fieldF, slice_15_12]; omega

/-- The bytes of a word, assembled, are the word (R53). -/
theorem assemble_bytes (w : Word) : assemble (highByte w) (lowByte w) = w := by
  apply BitVec.eq_of_toNat_eq
  have := w.isLt
  simp only [assemble, highByte, lowByte, slice_15_8, slice_7_0, BitVec.toNat_ofNat]
  omega

theorem toNat_assemble (hi lo : Byte) : (assemble hi lo).toNat = hi.toNat * 256 + lo.toNat := by
  have h1 := hi.isLt
  have h2 := lo.isLt
  simp only [assemble, BitVec.toNat_ofNat]
  omega

theorem decodeFamily8_wf {x y : Reg} {n : Nat} {i : Instr} (h : decodeFamily8 x y n = .ok i) : i.wf = true := by
  unfold decodeFamily8 at h
  split at h <;> cases h <;> rfl

theorem decodeFamilyE_wf {x : Reg} {nn : Byte} {i : Instr} (h : decodeFamilyE x nn = .ok i) : i.wf = true := by
  unfold decodeFamilyE at h
  repeat' split at h
  all_goals cases h
  all_goals rfl

theorem decodeFamilyF_wf {x : Reg} {nn : Byte} {i : Instr} (h : decodeFamilyF x nn = .ok i) : i.wf = true := by
  unfold decodeFamilyF at h
  repeat' split at h
  all_goals cases h
  all_goals rfl

/-- Every decoded instruction is well-formed. -/
theorem decode_wf {w : Word} {i : Instr} (h : decode w = .ok i) : i.wf = true := by
  unfold decode at h
  split at h
  case h_9 => exact decodeFamily8_wf h
  case h_15 => exact decodeFamilyE_wf h
  case h_16 => exact decodeFamilyF_wf h
  all_goals first
    | (cases h; first | rfl | simp [Instr.wf, fieldNNN_lt, fieldN_lt])
    | (repeat' split at h
       all_goals cases h
       all_goals rfl)

end Sys2Proof
end

