-- ==== Sys2Proof/Laws/State.lean ====
section
/-! SUPPORT. Every field after every named update of State, one lemma each, so that no later proof unfolds a
record update; and the accessors after the updates. -/

namespace Sys2Proof.Machine

/-! ### `V[x] <- b` -/

@[simp] theorem State.setV_V (s : State) (x : Reg) (b : Byte) : (s.setV x b).V = s.V.set x b := rfl
@[simp] theorem State.setV_I (s : State) (x : Reg) (b : Byte) : (s.setV x b).I = s.I := rfl
@[simp] theorem State.setV_PC (s : State) (x : Reg) (b : Byte) : (s.setV x b).PC = s.PC := rfl
@[simp] theorem State.setV_S (s : State) (x : Reg) (b : Byte) : (s.setV x b).S = s.S := rfl
@[simp] theorem State.setV_DT (s : State) (x : Reg) (b : Byte) : (s.setV x b).DT = s.DT := rfl
@[simp] theorem State.setV_ST (s : State) (x : Reg) (b : Byte) : (s.setV x b).ST = s.ST := rfl
@[simp] theorem State.setV_mem (s : State) (x : Reg) (b : Byte) : (s.setV x b).mem = s.mem := rfl
@[simp] theorem State.setV_FB (s : State) (x : Reg) (b : Byte) : (s.setV x b).FB = s.FB := rfl
@[simp] theorem State.setV_status (s : State) (x : Reg) (b : Byte) : (s.setV x b).status = s.status := rfl
@[simp] theorem State.setV_diag (s : State) (x : Reg) (b : Byte) : (s.setV x b).diag = s.diag := rfl
@[simp] theorem State.setV_cfg (s : State) (x : Reg) (b : Byte) : (s.setV x b).cfg = s.cfg := rfl
@[simp] theorem State.setV_ops (s : State) (x : Reg) (b : Byte) : (s.setV x b).ops = s.ops := rfl
@[simp] theorem State.setV_cur (s : State) (x : Reg) (b : Byte) : (s.setV x b).cur = s.cur := rfl
@[simp] theorem State.setV_draws (s : State) (x : Reg) (b : Byte) : (s.setV x b).draws = s.draws := rfl

/-! ### `I <- a` -/

@[simp] theorem State.setI_V (s : State) (a : Word) : (s.setI a).V = s.V := rfl
@[simp] theorem State.setI_I (s : State) (a : Word) : (s.setI a).I = a := rfl
@[simp] theorem State.setI_PC (s : State) (a : Word) : (s.setI a).PC = s.PC := rfl
@[simp] theorem State.setI_S (s : State) (a : Word) : (s.setI a).S = s.S := rfl
@[simp] theorem State.setI_DT (s : State) (a : Word) : (s.setI a).DT = s.DT := rfl
@[simp] theorem State.setI_ST (s : State) (a : Word) : (s.setI a).ST = s.ST := rfl
@[simp] theorem State.setI_mem (s : State) (a : Word) : (s.setI a).mem = s.mem := rfl
@[simp] theorem State.setI_FB (s : State) (a : Word) : (s.setI a).FB = s.FB := rfl
@[simp] theorem State.setI_status (s : State) (a : Word) : (s.setI a).status = s.status := rfl
@[simp] theorem State.setI_diag (s : State) (a : Word) : (s.setI a).diag = s.diag := rfl
@[simp] theorem State.setI_cfg (s : State) (a : Word) : (s.setI a).cfg = s.cfg := rfl
@[simp] theorem State.setI_ops (s : State) (a : Word) : (s.setI a).ops = s.ops := rfl
@[simp] theorem State.setI_cur (s : State) (a : Word) : (s.setI a).cur = s.cur := rfl
@[simp] theorem State.setI_draws (s : State) (a : Word) : (s.setI a).draws = s.draws := rfl

/-! ### `PC <- a` -/

@[simp] theorem State.setPC_V (s : State) (a : Nat) : (s.setPC a).V = s.V := rfl
@[simp] theorem State.setPC_I (s : State) (a : Nat) : (s.setPC a).I = s.I := rfl
@[simp] theorem State.setPC_PC (s : State) (a : Nat) : (s.setPC a).PC = a := rfl
@[simp] theorem State.setPC_S (s : State) (a : Nat) : (s.setPC a).S = s.S := rfl
@[simp] theorem State.setPC_DT (s : State) (a : Nat) : (s.setPC a).DT = s.DT := rfl
@[simp] theorem State.setPC_ST (s : State) (a : Nat) : (s.setPC a).ST = s.ST := rfl
@[simp] theorem State.setPC_mem (s : State) (a : Nat) : (s.setPC a).mem = s.mem := rfl
@[simp] theorem State.setPC_FB (s : State) (a : Nat) : (s.setPC a).FB = s.FB := rfl
@[simp] theorem State.setPC_status (s : State) (a : Nat) : (s.setPC a).status = s.status := rfl
@[simp] theorem State.setPC_diag (s : State) (a : Nat) : (s.setPC a).diag = s.diag := rfl
@[simp] theorem State.setPC_cfg (s : State) (a : Nat) : (s.setPC a).cfg = s.cfg := rfl
@[simp] theorem State.setPC_ops (s : State) (a : Nat) : (s.setPC a).ops = s.ops := rfl
@[simp] theorem State.setPC_cur (s : State) (a : Nat) : (s.setPC a).cur = s.cur := rfl
@[simp] theorem State.setPC_draws (s : State) (a : Nat) : (s.setPC a).draws = s.draws := rfl

/-! ### `DT <- b` -/

@[simp] theorem State.setDT_V (s : State) (b : Byte) : (s.setDT b).V = s.V := rfl
@[simp] theorem State.setDT_I (s : State) (b : Byte) : (s.setDT b).I = s.I := rfl
@[simp] theorem State.setDT_PC (s : State) (b : Byte) : (s.setDT b).PC = s.PC := rfl
@[simp] theorem State.setDT_S (s : State) (b : Byte) : (s.setDT b).S = s.S := rfl
@[simp] theorem State.setDT_DT (s : State) (b : Byte) : (s.setDT b).DT = b := rfl
@[simp] theorem State.setDT_ST (s : State) (b : Byte) : (s.setDT b).ST = s.ST := rfl
@[simp] theorem State.setDT_mem (s : State) (b : Byte) : (s.setDT b).mem = s.mem := rfl
@[simp] theorem State.setDT_FB (s : State) (b : Byte) : (s.setDT b).FB = s.FB := rfl
@[simp] theorem State.setDT_status (s : State) (b : Byte) : (s.setDT b).status = s.status := rfl
@[simp] theorem State.setDT_diag (s : State) (b : Byte) : (s.setDT b).diag = s.diag := rfl
@[simp] theorem State.setDT_cfg (s : State) (b : Byte) : (s.setDT b).cfg = s.cfg := rfl
@[simp] theorem State.setDT_ops (s : State) (b : Byte) : (s.setDT b).ops = s.ops := rfl
@[simp] theorem State.setDT_cur (s : State) (b : Byte) : (s.setDT b).cur = s.cur := rfl
@[simp] theorem State.setDT_draws (s : State) (b : Byte) : (s.setDT b).draws = s.draws := rfl

/-! ### `ST <- b` -/

@[simp] theorem State.setST_V (s : State) (b : Byte) : (s.setST b).V = s.V := rfl
@[simp] theorem State.setST_I (s : State) (b : Byte) : (s.setST b).I = s.I := rfl
@[simp] theorem State.setST_PC (s : State) (b : Byte) : (s.setST b).PC = s.PC := rfl
@[simp] theorem State.setST_S (s : State) (b : Byte) : (s.setST b).S = s.S := rfl
@[simp] theorem State.setST_DT (s : State) (b : Byte) : (s.setST b).DT = s.DT := rfl
@[simp] theorem State.setST_ST (s : State) (b : Byte) : (s.setST b).ST = b := rfl
@[simp] theorem State.setST_mem (s : State) (b : Byte) : (s.setST b).mem = s.mem := rfl
@[simp] theorem State.setST_FB (s : State) (b : Byte) : (s.setST b).FB = s.FB := rfl
@[simp] theorem State.setST_status (s : State) (b : Byte) : (s.setST b).status = s.status := rfl
@[simp] theorem State.setST_diag (s : State) (b : Byte) : (s.setST b).diag = s.diag := rfl
@[simp] theorem State.setST_cfg (s : State) (b : Byte) : (s.setST b).cfg = s.cfg := rfl
@[simp] theorem State.setST_ops (s : State) (b : Byte) : (s.setST b).ops = s.ops := rfl
@[simp] theorem State.setST_cur (s : State) (b : Byte) : (s.setST b).cur = s.cur := rfl
@[simp] theorem State.setST_draws (s : State) (b : Byte) : (s.setST b).draws = s.draws := rfl

/-! ### a new memory -/

@[simp] theorem State.setMem_V (s : State) (m : Memory) : (s.setMem m).V = s.V := rfl
@[simp] theorem State.setMem_I (s : State) (m : Memory) : (s.setMem m).I = s.I := rfl
@[simp] theorem State.setMem_PC (s : State) (m : Memory) : (s.setMem m).PC = s.PC := rfl
@[simp] theorem State.setMem_S (s : State) (m : Memory) : (s.setMem m).S = s.S := rfl
@[simp] theorem State.setMem_DT (s : State) (m : Memory) : (s.setMem m).DT = s.DT := rfl
@[simp] theorem State.setMem_ST (s : State) (m : Memory) : (s.setMem m).ST = s.ST := rfl
@[simp] theorem State.setMem_mem (s : State) (m : Memory) : (s.setMem m).mem = m := rfl
@[simp] theorem State.setMem_FB (s : State) (m : Memory) : (s.setMem m).FB = s.FB := rfl
@[simp] theorem State.setMem_status (s : State) (m : Memory) : (s.setMem m).status = s.status := rfl
@[simp] theorem State.setMem_diag (s : State) (m : Memory) : (s.setMem m).diag = s.diag := rfl
@[simp] theorem State.setMem_cfg (s : State) (m : Memory) : (s.setMem m).cfg = s.cfg := rfl
@[simp] theorem State.setMem_ops (s : State) (m : Memory) : (s.setMem m).ops = s.ops := rfl
@[simp] theorem State.setMem_cur (s : State) (m : Memory) : (s.setMem m).cur = s.cur := rfl
@[simp] theorem State.setMem_draws (s : State) (m : Memory) : (s.setMem m).draws = s.draws := rfl

/-! ### a new framebuffer -/

@[simp] theorem State.setFB_V (s : State) (fb : Framebuffer) : (s.setFB fb).V = s.V := rfl
@[simp] theorem State.setFB_I (s : State) (fb : Framebuffer) : (s.setFB fb).I = s.I := rfl
@[simp] theorem State.setFB_PC (s : State) (fb : Framebuffer) : (s.setFB fb).PC = s.PC := rfl
@[simp] theorem State.setFB_S (s : State) (fb : Framebuffer) : (s.setFB fb).S = s.S := rfl
@[simp] theorem State.setFB_DT (s : State) (fb : Framebuffer) : (s.setFB fb).DT = s.DT := rfl
@[simp] theorem State.setFB_ST (s : State) (fb : Framebuffer) : (s.setFB fb).ST = s.ST := rfl
@[simp] theorem State.setFB_mem (s : State) (fb : Framebuffer) : (s.setFB fb).mem = s.mem := rfl
@[simp] theorem State.setFB_FB (s : State) (fb : Framebuffer) : (s.setFB fb).FB = fb := rfl
@[simp] theorem State.setFB_status (s : State) (fb : Framebuffer) : (s.setFB fb).status = s.status := rfl
@[simp] theorem State.setFB_diag (s : State) (fb : Framebuffer) : (s.setFB fb).diag = s.diag := rfl
@[simp] theorem State.setFB_cfg (s : State) (fb : Framebuffer) : (s.setFB fb).cfg = s.cfg := rfl
@[simp] theorem State.setFB_ops (s : State) (fb : Framebuffer) : (s.setFB fb).ops = s.ops := rfl
@[simp] theorem State.setFB_cur (s : State) (fb : Framebuffer) : (s.setFB fb).cur = s.cur := rfl
@[simp] theorem State.setFB_draws (s : State) (fb : Framebuffer) : (s.setFB fb).draws = s.draws := rfl

/-! ### `skip` -/

@[simp] theorem State.skip_V (s : State) : (s.skip).V = s.V := rfl
@[simp] theorem State.skip_I (s : State) : (s.skip).I = s.I := rfl
@[simp] theorem State.skip_PC (s : State) : (s.skip).PC = s.PC + 2 := rfl
@[simp] theorem State.skip_S (s : State) : (s.skip).S = s.S := rfl
@[simp] theorem State.skip_DT (s : State) : (s.skip).DT = s.DT := rfl
@[simp] theorem State.skip_ST (s : State) : (s.skip).ST = s.ST := rfl
@[simp] theorem State.skip_mem (s : State) : (s.skip).mem = s.mem := rfl
@[simp] theorem State.skip_FB (s : State) : (s.skip).FB = s.FB := rfl
@[simp] theorem State.skip_status (s : State) : (s.skip).status = s.status := rfl
@[simp] theorem State.skip_diag (s : State) : (s.skip).diag = s.diag := rfl
@[simp] theorem State.skip_cfg (s : State) : (s.skip).cfg = s.cfg := rfl
@[simp] theorem State.skip_ops (s : State) : (s.skip).ops = s.ops := rfl
@[simp] theorem State.skip_cur (s : State) : (s.skip).cur = s.cur := rfl
@[simp] theorem State.skip_draws (s : State) : (s.skip).draws = s.draws := rfl

/-! ### `push(a)` -/

@[simp] theorem State.push_V (s : State) (a : Nat) : (s.push a).V = s.V := rfl
@[simp] theorem State.push_I (s : State) (a : Nat) : (s.push a).I = s.I := rfl
@[simp] theorem State.push_PC (s : State) (a : Nat) : (s.push a).PC = s.PC := rfl
@[simp] theorem State.push_S (s : State) (a : Nat) : (s.push a).S = s.S ++ [a] := rfl
@[simp] theorem State.push_DT (s : State) (a : Nat) : (s.push a).DT = s.DT := rfl
@[simp] theorem State.push_ST (s : State) (a : Nat) : (s.push a).ST = s.ST := rfl
@[simp] theorem State.push_mem (s : State) (a : Nat) : (s.push a).mem = s.mem := rfl
@[simp] theorem State.push_FB (s : State) (a : Nat) : (s.push a).FB = s.FB := rfl
@[simp] theorem State.push_status (s : State) (a : Nat) : (s.push a).status = s.status := rfl
@[simp] theorem State.push_diag (s : State) (a : Nat) : (s.push a).diag = s.diag := rfl
@[simp] theorem State.push_cfg (s : State) (a : Nat) : (s.push a).cfg = s.cfg := rfl
@[simp] theorem State.push_ops (s : State) (a : Nat) : (s.push a).ops = s.ops := rfl
@[simp] theorem State.push_cur (s : State) (a : Nat) : (s.push a).cur = s.cur := rfl
@[simp] theorem State.push_draws (s : State) (a : Nat) : (s.push a).draws = s.draws := rfl

/-! ### `report Diag(e)` -/

@[simp] theorem State.report_V (s : State) (e : DiagEvent) : (s.report e).V = s.V := rfl
@[simp] theorem State.report_I (s : State) (e : DiagEvent) : (s.report e).I = s.I := rfl
@[simp] theorem State.report_PC (s : State) (e : DiagEvent) : (s.report e).PC = s.PC := rfl
@[simp] theorem State.report_S (s : State) (e : DiagEvent) : (s.report e).S = s.S := rfl
@[simp] theorem State.report_DT (s : State) (e : DiagEvent) : (s.report e).DT = s.DT := rfl
@[simp] theorem State.report_ST (s : State) (e : DiagEvent) : (s.report e).ST = s.ST := rfl
@[simp] theorem State.report_mem (s : State) (e : DiagEvent) : (s.report e).mem = s.mem := rfl
@[simp] theorem State.report_FB (s : State) (e : DiagEvent) : (s.report e).FB = s.FB := rfl
@[simp] theorem State.report_status (s : State) (e : DiagEvent) : (s.report e).status = s.status := rfl
@[simp] theorem State.report_diag (s : State) (e : DiagEvent) : (s.report e).diag = s.diag ++ [e] := rfl
@[simp] theorem State.report_cfg (s : State) (e : DiagEvent) : (s.report e).cfg = s.cfg := rfl
@[simp] theorem State.report_ops (s : State) (e : DiagEvent) : (s.report e).ops = s.ops := rfl
@[simp] theorem State.report_cur (s : State) (e : DiagEvent) : (s.report e).cur = s.cur := rfl
@[simp] theorem State.report_draws (s : State) (e : DiagEvent) : (s.report e).draws = s.draws := rfl

/-! ### the end of a Step -/

@[simp] theorem State.retire_V (s : State) : (s.retire).V = s.V := rfl
@[simp] theorem State.retire_I (s : State) : (s.retire).I = s.I := rfl
@[simp] theorem State.retire_PC (s : State) : (s.retire).PC = s.PC := rfl
@[simp] theorem State.retire_S (s : State) : (s.retire).S = s.S := rfl
@[simp] theorem State.retire_DT (s : State) : (s.retire).DT = s.DT := rfl
@[simp] theorem State.retire_ST (s : State) : (s.retire).ST = s.ST := rfl
@[simp] theorem State.retire_mem (s : State) : (s.retire).mem = s.mem := rfl
@[simp] theorem State.retire_FB (s : State) : (s.retire).FB = s.FB := rfl
@[simp] theorem State.retire_status (s : State) : (s.retire).status = s.status := rfl
@[simp] theorem State.retire_diag (s : State) : (s.retire).diag = s.diag := rfl
@[simp] theorem State.retire_cfg (s : State) : (s.retire).cfg = s.cfg := rfl
@[simp] theorem State.retire_ops (s : State) : (s.retire).ops = s.ops := rfl
@[simp] theorem State.retire_cur (s : State) : (s.retire).cur = Latch.idle := rfl
@[simp] theorem State.retire_draws (s : State) : (s.retire).draws = s.draws := rfl

/-! ### fault entry -/

@[simp] theorem raise_V (s : State) (c : FaultCause) : (raise c s).V = s.V := rfl
@[simp] theorem raise_I (s : State) (c : FaultCause) : (raise c s).I = s.I := rfl
@[simp] theorem raise_PC (s : State) (c : FaultCause) : (raise c s).PC = s.cur.pc0 := rfl
@[simp] theorem raise_S (s : State) (c : FaultCause) : (raise c s).S = s.S := rfl
@[simp] theorem raise_DT (s : State) (c : FaultCause) : (raise c s).DT = s.DT := rfl
@[simp] theorem raise_ST (s : State) (c : FaultCause) : (raise c s).ST = s.ST := rfl
@[simp] theorem raise_mem (s : State) (c : FaultCause) : (raise c s).mem = s.mem := rfl
@[simp] theorem raise_FB (s : State) (c : FaultCause) : (raise c s).FB = s.FB := rfl
@[simp] theorem raise_status (s : State) (c : FaultCause) : (raise c s).status = .faulted ⟨c, s.cur.pc0, s.cur.word⟩ := rfl
@[simp] theorem raise_diag (s : State) (c : FaultCause) : (raise c s).diag = s.diag := rfl
@[simp] theorem raise_cfg (s : State) (c : FaultCause) : (raise c s).cfg = s.cfg := rfl
@[simp] theorem raise_ops (s : State) (c : FaultCause) : (raise c s).ops = s.ops := rfl
@[simp] theorem raise_cur (s : State) (c : FaultCause) : (raise c s).cur = s.cur := rfl
@[simp] theorem raise_draws (s : State) (c : FaultCause) : (raise c s).draws = s.draws := rfl

/-! ### the beginning of a Step -/

@[simp] theorem beginStep_V (s : State) (k : BitVec 16) (r : Byte) : (beginStep k r s).V = s.V := rfl
@[simp] theorem beginStep_I (s : State) (k : BitVec 16) (r : Byte) : (beginStep k r s).I = s.I := rfl
@[simp] theorem beginStep_PC (s : State) (k : BitVec 16) (r : Byte) : (beginStep k r s).PC = s.PC := rfl
@[simp] theorem beginStep_S (s : State) (k : BitVec 16) (r : Byte) : (beginStep k r s).S = s.S := rfl
@[simp] theorem beginStep_DT (s : State) (k : BitVec 16) (r : Byte) : (beginStep k r s).DT = s.DT := rfl
@[simp] theorem beginStep_ST (s : State) (k : BitVec 16) (r : Byte) : (beginStep k r s).ST = s.ST := rfl
@[simp] theorem beginStep_mem (s : State) (k : BitVec 16) (r : Byte) : (beginStep k r s).mem = s.mem := rfl
@[simp] theorem beginStep_FB (s : State) (k : BitVec 16) (r : Byte) : (beginStep k r s).FB = s.FB := rfl
@[simp] theorem beginStep_status (s : State) (k : BitVec 16) (r : Byte) : (beginStep k r s).status = s.status := rfl
@[simp] theorem beginStep_diag (s : State) (k : BitVec 16) (r : Byte) : (beginStep k r s).diag = s.diag := rfl
@[simp] theorem beginStep_cfg (s : State) (k : BitVec 16) (r : Byte) : (beginStep k r s).cfg = s.cfg := rfl
@[simp] theorem beginStep_ops (s : State) (k : BitVec 16) (r : Byte) : (beginStep k r s).ops = s.ops := rfl
@[simp] theorem beginStep_cur (s : State) (k : BitVec 16) (r : Byte) : (beginStep k r s).cur = ⟨s.PC, none, k, r⟩ := rfl
@[simp] theorem beginStep_draws (s : State) (k : BitVec 16) (r : Byte) : (beginStep k r s).draws = s.draws := rfl

/-! ### the transfers of FX65 -/

@[simp] theorem loadRegs_V (s : State) (x : Reg) : (State.loadRegs x s).V = Vector.ofFn fun k : Reg => if k ≤ x then s.byteAt (s.I.toNat + k.val) else s.getV k := rfl
@[simp] theorem loadRegs_I (s : State) (x : Reg) : (State.loadRegs x s).I = s.I := rfl
@[simp] theorem loadRegs_PC (s : State) (x : Reg) : (State.loadRegs x s).PC = s.PC := rfl
@[simp] theorem loadRegs_S (s : State) (x : Reg) : (State.loadRegs x s).S = s.S := rfl
@[simp] theorem loadRegs_DT (s : State) (x : Reg) : (State.loadRegs x s).DT = s.DT := rfl
@[simp] theorem loadRegs_ST (s : State) (x : Reg) : (State.loadRegs x s).ST = s.ST := rfl
@[simp] theorem loadRegs_mem (s : State) (x : Reg) : (State.loadRegs x s).mem = s.mem := rfl
@[simp] theorem loadRegs_FB (s : State) (x : Reg) : (State.loadRegs x s).FB = s.FB := rfl
@[simp] theorem loadRegs_status (s : State) (x : Reg) : (State.loadRegs x s).status = s.status := rfl
@[simp] theorem loadRegs_diag (s : State) (x : Reg) : (State.loadRegs x s).diag = s.diag := rfl
@[simp] theorem loadRegs_cfg (s : State) (x : Reg) : (State.loadRegs x s).cfg = s.cfg := rfl
@[simp] theorem loadRegs_ops (s : State) (x : Reg) : (State.loadRegs x s).ops = s.ops := rfl
@[simp] theorem loadRegs_cur (s : State) (x : Reg) : (State.loadRegs x s).cur = s.cur := rfl
@[simp] theorem loadRegs_draws (s : State) (x : Reg) : (State.loadRegs x s).draws = s.draws := rfl

/-! ### a Tick -/

@[simp] theorem tick_V (s : State) : (tick s).V = s.V := rfl
@[simp] theorem tick_I (s : State) : (tick s).I = s.I := rfl
@[simp] theorem tick_PC (s : State) : (tick s).PC = s.PC := rfl
@[simp] theorem tick_S (s : State) : (tick s).S = s.S := rfl
@[simp] theorem tick_DT (s : State) : (tick s).DT = countDown s.DT := rfl
@[simp] theorem tick_ST (s : State) : (tick s).ST = countDown s.ST := rfl
@[simp] theorem tick_mem (s : State) : (tick s).mem = s.mem := rfl
@[simp] theorem tick_FB (s : State) : (tick s).FB = s.FB := rfl
@[simp] theorem tick_status (s : State) : (tick s).status = s.status := rfl
@[simp] theorem tick_diag (s : State) : (tick s).diag = s.diag := rfl
@[simp] theorem tick_cfg (s : State) : (tick s).cfg = s.cfg := rfl
@[simp] theorem tick_ops (s : State) : (tick s).ops = s.ops := rfl
@[simp] theorem tick_cur (s : State) : (tick s).cur = s.cur := rfl
@[simp] theorem tick_draws (s : State) : (tick s).draws = s.draws := rfl

/-! ### a conditional skip -/

@[simp] theorem State.skipIf_V (s : State) (c : Bool) : (s.skipIf c).V = s.V := by cases c <;> rfl
@[simp] theorem State.skipIf_I (s : State) (c : Bool) : (s.skipIf c).I = s.I := by cases c <;> rfl
@[simp] theorem State.skipIf_PC (s : State) (c : Bool) : (s.skipIf c).PC = if c then s.PC + 2 else s.PC := by cases c <;> rfl
@[simp] theorem State.skipIf_S (s : State) (c : Bool) : (s.skipIf c).S = s.S := by cases c <;> rfl
@[simp] theorem State.skipIf_DT (s : State) (c : Bool) : (s.skipIf c).DT = s.DT := by cases c <;> rfl
@[simp] theorem State.skipIf_ST (s : State) (c : Bool) : (s.skipIf c).ST = s.ST := by cases c <;> rfl
@[simp] theorem State.skipIf_mem (s : State) (c : Bool) : (s.skipIf c).mem = s.mem := by cases c <;> rfl
@[simp] theorem State.skipIf_FB (s : State) (c : Bool) : (s.skipIf c).FB = s.FB := by cases c <;> rfl
@[simp] theorem State.skipIf_status (s : State) (c : Bool) : (s.skipIf c).status = s.status := by cases c <;> rfl
@[simp] theorem State.skipIf_diag (s : State) (c : Bool) : (s.skipIf c).diag = s.diag := by cases c <;> rfl
@[simp] theorem State.skipIf_cfg (s : State) (c : Bool) : (s.skipIf c).cfg = s.cfg := by cases c <;> rfl
@[simp] theorem State.skipIf_ops (s : State) (c : Bool) : (s.skipIf c).ops = s.ops := by cases c <;> rfl
@[simp] theorem State.skipIf_cur (s : State) (c : Bool) : (s.skipIf c).cur = s.cur := by cases c <;> rfl
@[simp] theorem State.skipIf_draws (s : State) (c : Bool) : (s.skipIf c).draws = s.draws := by cases c <;> rfl

/-! ### the accessors -/

/-- A register read after a register write. -/
@[simp] theorem State.setV_getV (s : State) (x y : Reg) (b : Byte) :
    (s.setV x b).getV y = if y = x then b else s.getV y := by
  by_cases h : y = x
  · subst h; simp [State.getV]
  · have h' : x.val ≠ y.val := fun e => h (Fin.ext e.symm)
    simp [State.getV, h, h']

/-- Every register after FX65's transfers (R168). -/
@[simp] theorem State.loadRegs_getV (s : State) (x r : Reg) :
    (State.loadRegs x s).getV r = if r ≤ x then s.byteAt (s.I.toNat + r.val) else s.getV r := by
  simp [State.getV, State.loadRegs]

/-- A register is read from the register file alone. -/
theorem State.getV_congr {s t : State} (h : t.V = s.V) (x : Reg) : t.getV x = s.getV x := by
  simp [State.getV, h]

/-- A byte is read from the memory alone. -/
theorem State.byteAt_congr {s t : State} (h : t.mem = s.mem) (a : Nat) : t.byteAt a = s.byteAt a := by
  simp [State.byteAt, h]

@[simp] theorem State.setI_getV (s : State) (a : Word) (x : Reg) : (s.setI a).getV x = s.getV x := rfl
@[simp] theorem State.setI_byteAt (s : State) (a : Word) (k : Nat) : (s.setI a).byteAt k = s.byteAt k := rfl
@[simp] theorem State.setPC_getV (s : State) (a : Nat) (x : Reg) : (s.setPC a).getV x = s.getV x := rfl
@[simp] theorem State.setPC_byteAt (s : State) (a : Nat) (k : Nat) : (s.setPC a).byteAt k = s.byteAt k := rfl
@[simp] theorem State.setDT_getV (s : State) (b : Byte) (x : Reg) : (s.setDT b).getV x = s.getV x := rfl
@[simp] theorem State.setDT_byteAt (s : State) (b : Byte) (k : Nat) : (s.setDT b).byteAt k = s.byteAt k := rfl
@[simp] theorem State.setST_getV (s : State) (b : Byte) (x : Reg) : (s.setST b).getV x = s.getV x := rfl
@[simp] theorem State.setST_byteAt (s : State) (b : Byte) (k : Nat) : (s.setST b).byteAt k = s.byteAt k := rfl
@[simp] theorem State.setMem_getV (s : State) (m : Memory) (x : Reg) : (s.setMem m).getV x = s.getV x := rfl
@[simp] theorem State.setFB_getV (s : State) (fb : Framebuffer) (x : Reg) : (s.setFB fb).getV x = s.getV x := rfl
@[simp] theorem State.setFB_byteAt (s : State) (fb : Framebuffer) (k : Nat) : (s.setFB fb).byteAt k = s.byteAt k := rfl
@[simp] theorem State.push_getV (s : State) (a : Nat) (x : Reg) : (s.push a).getV x = s.getV x := rfl
@[simp] theorem State.push_byteAt (s : State) (a : Nat) (k : Nat) : (s.push a).byteAt k = s.byteAt k := rfl
@[simp] theorem State.report_getV (s : State) (e : DiagEvent) (x : Reg) : (s.report e).getV x = s.getV x := rfl
@[simp] theorem State.report_byteAt (s : State) (e : DiagEvent) (k : Nat) : (s.report e).byteAt k = s.byteAt k := rfl
@[simp] theorem State.retire_getV (s : State) (x : Reg) : (s.retire).getV x = s.getV x := rfl
@[simp] theorem State.retire_byteAt (s : State) (k : Nat) : (s.retire).byteAt k = s.byteAt k := rfl
@[simp] theorem raise_getV (s : State) (c : FaultCause) (x : Reg) : (raise c s).getV x = s.getV x := rfl
@[simp] theorem raise_byteAt (s : State) (c : FaultCause) (k : Nat) : (raise c s).byteAt k = s.byteAt k := rfl
@[simp] theorem beginStep_getV (s : State) (k : BitVec 16) (r : Byte) (x : Reg) : (beginStep k r s).getV x = s.getV x := rfl
@[simp] theorem beginStep_byteAt (s : State) (k : BitVec 16) (r : Byte) (n : Nat) : (beginStep k r s).byteAt n = s.byteAt n := rfl
@[simp] theorem State.setMem_byteAt (s : State) (m : Memory) (k : Nat) : (s.setMem m).byteAt k = m.read k := rfl
@[simp] theorem State.setV_byteAt (s : State) (x : Reg) (b : Byte) (k : Nat) : (s.setV x b).byteAt k = s.byteAt k := rfl
@[simp] theorem State.loadRegs_byteAt (s : State) (x : Reg) (k : Nat) : (State.loadRegs x s).byteAt k = s.byteAt k := rfl
@[simp] theorem State.skipIf_getV (s : State) (c : Bool) (x : Reg) : (s.skipIf c).getV x = s.getV x := by cases c <;> rfl
@[simp] theorem State.skipIf_byteAt (s : State) (c : Bool) (k : Nat) : (s.skipIf c).byteAt k = s.byteAt k := by
  cases c <;> rfl

/-! ### frames -/

/-- A frame with more components named is weaker. -/
theorem UnchangedBut.mono {s t : State} {l l' : List Component} (h : UnchangedBut l s t) (hl : ∀ c ∈ l, c ∈ l') :
    UnchangedBut l' s t := fun c hc => h c fun hm => hc (hl c hm)

theorem UnchangedBut.refl (l : List Component) (s : State) : UnchangedBut l s s := by
  intro c _
  cases c <;> simp [Component.agree]

theorem UnchangedBut.trans {s t u : State} {l : List Component} (h : UnchangedBut l s t) (h' : UnchangedBut l t u) :
    UnchangedBut l s u := by
  intro c hc
  have h1 := h c hc
  have h2 := h' c hc
  cases c <;> simp_all [Component.agree]

end Sys2Proof.Machine
end

