-- ==== Sys2Proof/Laws/Memory.lean ====
section
/-! SUPPORT. The byte memory: reads after writes (20_memory.md R58), and that every operation keeps the canonical
form and the bound on the listed addresses. -/

namespace Sys2Proof.Machine

/-! ### reads after writes -/

/-- Erasing an address makes it read as unlisted, and leaves every other address alone. -/
theorem Memory.read_erase (m : Memory) (a k : Nat) :
    (m.erase a).read k = if k = a then Memory.unlisted else m.read k := by
  induction m with
  | nil => simp [Memory.erase, Memory.read]
  | cons c m ih =>
    simp only [Memory.erase, ne_eq, List.filter_cons, decide_not, Bool.not_eq_eq_eq_not, Bool.not_true,
      decide_eq_false_iff_not] at ih ⊢
    by_cases hc : c.1 = a
    · simp only [hc, not_true_eq_false, if_false, ih, Memory.read]
      by_cases hk : k = a
      · simp [hk]
      · simp [hk, Ne.symm hk]
    · simp only [hc, not_false_eq_true, if_true, Memory.read]
      by_cases hk : c.1 = k
      · have : k ≠ a := fun e => hc (hk.trans e)
        simp [hk, this]
      · simp [hk, ih]

/-- Inserting an address that has no entry makes it read as the byte inserted. -/
theorem Memory.read_insert (m : Memory) (a k : Nat) (b : Byte) (h : ∀ c ∈ m, c.1 ≠ a) :
    (m.insert a b).read k = if k = a then b else m.read k := by
  induction m with
  | nil =>
    by_cases hk : k = a
    · simp [Memory.insert, Memory.read, hk]
    · simp [Memory.insert, Memory.read, hk, Ne.symm hk]
  | cons c m ih =>
    have hc : c.1 ≠ a := h c (by simp)
    have hm : ∀ c ∈ m, c.1 ≠ a := fun d hd => h d (by simp [hd])
    by_cases hlt : a < c.1
    · by_cases hk : k = a
      · simp [Memory.insert, Memory.read, hlt, hk]
      · simp [Memory.insert, Memory.read, hlt, hk, Ne.symm hk]
    · by_cases hk : c.1 = k
      · have : k ≠ a := fun e => hc (hk.trans e)
        have hlt' : ¬ a < k := hk ▸ hlt
        simp [Memory.insert, Memory.read, hlt', hk, this]
      · simp [Memory.insert, Memory.read, hlt, hk, ih hm]

/-- A read after a write (R58). -/
@[simp] theorem Memory.read_write (m : Memory) (a k : Nat) (b : Byte) :
    (m.write a b).read k = if k = a then b else m.read k := by
  unfold Memory.write
  by_cases hb : b = Memory.unlisted
  · simp [hb, Memory.read_erase]
  · have h : ∀ c ∈ m.erase a, c.1 ≠ a := by
      intro c hc
      simpa [Memory.erase] using (List.mem_filter.1 hc).2
    simp only [hb, if_false, Memory.read_insert _ _ _ _ h, Memory.read_erase]
    by_cases hk : k = a <;> simp [hk]

/-- A read after a consecutive write: byte k - base of the bytes written, or what was there before. -/
theorem Memory.read_writeBytes (m : Memory) (base : Nat) (bs : List Byte) (k : Nat) :
    (m.writeBytes base bs).read k = if base ≤ k then bs[k - base]?.getD (m.read k) else m.read k := by
  induction bs generalizing m base with
  | nil => simp [Memory.writeBytes]
  | cons b bs ih =>
    simp only [Memory.writeBytes, ih, Memory.read_write]
    by_cases h1 : base + 1 ≤ k
    · obtain ⟨d, rfl⟩ : ∃ d, k = base + 1 + d := ⟨k - (base + 1), by omega⟩
      have e1 : base + 1 + d - (base + 1) = d := by omega
      have e2 : base + 1 + d - base = d + 1 := by omega
      have e3 : base + 1 + d ≠ base := by omega
      have e4 : base ≤ base + 1 + d := by omega
      simp [e1, e2, e3, e4]
    · by_cases h2 : k = base
      · subst h2; simp
      · have h3 : ¬ base ≤ k := by omega
        simp [h1, h2, h3]

/-- Outside the bytes written, a consecutive write changes nothing. -/
theorem Memory.read_writeBytes_outside (m : Memory) (base : Nat) (bs : List Byte) (k : Nat)
    (h : k < base ∨ base + bs.length ≤ k) : (m.writeBytes base bs).read k = m.read k := by
  rw [Memory.read_writeBytes]
  split
  · rw [List.getElem?_eq_none (by omega)]; rfl
  · rfl

@[simp] theorem Memory.length_readBytes (m : Memory) (base n : Nat) : (m.readBytes base n).length = n := by
  simp [Memory.readBytes]

/-! ### the canonical form -/

theorem Memory.wf_erase {m : Memory} (h : m.wf) (a : Nat) : (m.erase a).wf :=
  ⟨h.1.filter _, fun c hc => h.2 c (List.mem_filter.1 hc).1⟩

/-- The entries after an insertion: the one inserted and those there before. -/
theorem Memory.mem_insert (m : Memory) (a : Nat) (b : Byte) (c : Host.Cell) :
    c ∈ m.insert a b ↔ c = (a, b) ∨ c ∈ m := by
  induction m with
  | nil => simp [Memory.insert]
  | cons d m ih =>
    by_cases hlt : a < d.1
    · simp [Memory.insert, hlt]
    · simp only [Memory.insert, hlt, if_false, List.mem_cons, ih]
      tauto

theorem Memory.wf_insert {m : Memory} (h : m.wf) (a : Nat) (b : Byte) (ha : ∀ c ∈ m, c.1 ≠ a)
    (hb : b ≠ Memory.unlisted) : (m.insert a b).wf := by
  refine ⟨?_, ?_⟩
  · have hp := h.1
    clear h
    induction m with
    | nil => simp [Memory.insert]
    | cons c m ih =>
      rw [List.pairwise_cons] at hp
      by_cases hlt : a < c.1
      · simp only [Memory.insert, hlt, if_true, List.pairwise_cons]
        refine ⟨?_, hp.1, hp.2⟩
        intro d hd
        rcases List.mem_cons.1 hd with rfl | hd
        · exact hlt
        · exact lt_trans hlt (hp.1 d hd)
      · simp only [Memory.insert, hlt, if_false, List.pairwise_cons]
        refine ⟨?_, ih (fun d hd => ha d (by simp [hd])) hp.2⟩
        intro d hd
        rcases (Memory.mem_insert m a b d).1 hd with rfl | hd
        · have := ha c (by simp)
          change c.1 < a
          omega
        · exact hp.1 d hd
  · intro c hc
    rcases (Memory.mem_insert m a b c).1 hc with rfl | hc
    · exact hb
    · exact h.2 c hc

/-- A write keeps the canonical form. -/
theorem Memory.wf_write {m : Memory} (h : m.wf) (a : Nat) (b : Byte) : (m.write a b).wf := by
  unfold Memory.write
  split
  · exact Memory.wf_erase h a
  · exact Memory.wf_insert (Memory.wf_erase h a) a b
      (fun c hc => by simpa [Memory.erase] using (List.mem_filter.1 hc).2) ‹_›

/-- A consecutive write keeps the canonical form. -/
theorem Memory.wf_writeBytes {m : Memory} (h : m.wf) (base : Nat) (bs : List Byte) :
    (m.writeBytes base bs).wf := by
  induction bs generalizing m base with
  | nil => exact h
  | cons b bs ih => exact ih (Memory.wf_write h base b) (base + 1)

/-- A write at an address that exists lists no address that does not. -/
theorem Memory.within_write {m : Memory} {size : Nat} (h : m.within size) {a : Nat} (ha : a < size) (b : Byte) :
    (m.write a b).within size := by
  intro c hc
  unfold Memory.write at hc
  split at hc
  · exact h c (List.mem_filter.1 hc).1
  · rcases (Memory.mem_insert _ a b c).1 hc with rfl | hc
    · exact ha
    · exact h c (List.mem_filter.1 hc).1

theorem Memory.within_writeBytes {m : Memory} {size : Nat} (h : m.within size) (base : Nat) (bs : List Byte)
    (hb : base + bs.length ≤ size) : (m.writeBytes base bs).within size := by
  induction bs generalizing m base with
  | nil => exact h
  | cons b bs ih =>
    simp only [List.length_cons] at hb
    exact ih (Memory.within_write h (by omega) b) (base + 1) (by omega)

/-- An image laid out is in canonical form. -/
theorem Memory.wf_ofImage (base : Nat) (rom : List Byte) : (Memory.ofImage base rom).wf := by
  refine ⟨List.Pairwise.filter _ ?_, fun c hc => by simpa using (List.mem_filter.1 hc).2⟩
  rw [List.pairwise_map]
  induction rom generalizing base with
  | nil => simp
  | cons b rom ih =>
    rw [List.zipIdx_cons, List.pairwise_cons]
    refine ⟨?_, ih (base + 1)⟩
    intro p hp
    have := List.le_snd_of_mem_zipIdx hp
    show base < p.2
    omega

theorem reset_memory_wf : State.reset.mem.wf := by simp [State.reset, Memory.wf]

end Sys2Proof.Machine
end

