-- ==== Sys2Proof/Laws/Ops.lean ====
section
/-! SUPPORT. What each shared operation can do, said once: callers cite these lemmas and do not unfold the
operations. -/

namespace Sys2Proof.Machine

/-! ### frames of the named updates -/

theorem setV_frame (s : State) (x : Reg) (b : Byte) : UnchangedBut [.V] s (s.setV x b) := by
  intro c hc; cases c <;> simp_all [Component.agree]

theorem setI_frame (s : State) (a : Word) : UnchangedBut [.I] s (s.setI a) := by
  intro c hc; cases c <;> simp_all [Component.agree]

theorem setPC_frame (s : State) (a : Nat) : UnchangedBut [.PC] s (s.setPC a) := by
  intro c hc; cases c <;> simp_all [Component.agree]

theorem setDT_frame (s : State) (b : Byte) : UnchangedBut [.DT] s (s.setDT b) := by
  intro c hc; cases c <;> simp_all [Component.agree]

theorem setST_frame (s : State) (b : Byte) : UnchangedBut [.ST] s (s.setST b) := by
  intro c hc; cases c <;> simp_all [Component.agree]

theorem setMem_frame (s : State) (m : Memory) : UnchangedBut [.mem] s (s.setMem m) := by
  intro c hc; cases c <;> simp_all [Component.agree]

theorem setFB_frame (s : State) (fb : Framebuffer) : UnchangedBut [.FB] s (s.setFB fb) := by
  intro c hc; cases c <;> simp_all [Component.agree]

theorem push_frame (s : State) (a : Nat) : UnchangedBut [.S] s (s.push a) := by
  intro c hc; cases c <;> simp_all [Component.agree]

theorem report_frame (s : State) (e : DiagEvent) : UnchangedBut [.diag] s (s.report e) := by
  intro c hc; cases c <;> simp_all [Component.agree]

theorem skipIf_frame (s : State) (c : Bool) : UnchangedBut [.PC] s (s.skipIf c) := by
  intro k hk; cases k <;> simp_all [Component.agree]

theorem loadRegs_frame (s : State) (x : Reg) : UnchangedBut [.V] s (State.loadRegs x s) := by
  intro c hc; cases c <;> simp_all [Component.agree]

/-- Fault entry writes the status and the PC alone (R226). -/
theorem raise_frame (c : FaultCause) (s : State) : UnchangedBut [.PC, .status] s (raise c s) := by
  intro k hk; cases k <;> simp_all [Component.agree]

/-! ### the range check -/

/-- The range check passes iff the range is empty or lies below MEM_SIZE (R162). -/
theorem rangeFault_eq_none (size base n : Nat) : rangeFault size base n = none ↔ n = 0 ∨ base + n ≤ size := by
  unfold rangeFault
  split <;> simp <;> omega

/-- The range check reports the lowest out-of-range address (R162). -/
theorem rangeFault_eq_some (size base n a : Nat) :
    rangeFault size base n = some a ↔ 0 < n ∧ size < base + n ∧ a = max base size := by
  unfold rangeFault
  split
  · simp only [Option.some.injEq]
    constructor
    · intro h; omega
    · rintro ⟨_, _, h⟩; exact h.symm
  · simp only [reduceCtorEq, false_iff]
    omega

/-! ### the call stack -/

theorem State.pop_nil {s : State} (h : s.S = []) : s.pop = none := by simp [State.pop, h]

theorem State.pop_concat {s : State} {l : List Nat} {a : Nat} (h : s.S = l ++ [a]) :
    s.pop = some (a, { s with S := l }) := by simp [State.pop, h]

/-- A pop finds the stack empty, or takes its last element off. -/
theorem State.pop_cases (s : State) :
    (s.S = [] ∧ s.pop = none) ∨ ∃ l a, s.S = l ++ [a] ∧ s.pop = some (a, { s with S := l }) := by
  rcases List.eq_nil_or_concat s.S with h | ⟨l, a, h⟩
  · exact .inl ⟨h, State.pop_nil h⟩
  · rw [List.concat_eq_append] at h
    exact .inr ⟨l, a, h, State.pop_concat h⟩

/-- The stack is full iff a finite capacity is reached (R104, R107). -/
theorem stackFull_iff (s : State) : stackFull s = true ↔ s.cfg.stackCapacity = some s.S.length := by
  unfold stackFull
  split <;> rename_i h <;> simp [h, eq_comm]

/-- A depth above 16 is reported, and nothing else happens (R234). -/
theorem reportDepth_cases (s : State) :
    (16 < s.S.length ∧ reportDepth s = s.report (.stackDeep s.S.length)) ∨
    (s.S.length ≤ 16 ∧ reportDepth s = s) := by
  unfold reportDepth
  split
  · exact .inl ⟨‹_›, rfl⟩
  · exact .inr ⟨by omega, rfl⟩

/-! ### results and flags -/

/-- Every register after a result and a flag are written: VF ends as the flag (R132). -/
theorem setResultThenFlag_getV (s : State) (x r : Reg) (b f : Byte) :
    (s.setResultThenFlag x b f).getV r = if r = regF then f else if r = x then b else s.getV r := by
  simp [State.setResultThenFlag]

theorem setResultThenFlag_frame (s : State) (x : Reg) (b f : Byte) :
    UnchangedBut [.V] s (s.setResultThenFlag x b f) :=
  (setV_frame s x b).trans (setV_frame _ regF f)

/-- Every register after a logical result (R134, R137). -/
theorem setLogicResult_getV (s : State) (x r : Reg) (b : Byte) :
    (s.setLogicResult x b).getV r =
      if s.cfg.qLogicVfReset = true ∧ r = regF then 0 else if r = x then b else s.getV r := by
  unfold State.setLogicResult
  split <;> simp [*]

theorem setLogicResult_frame (s : State) (x : Reg) (b : Byte) : UnchangedBut [.V] s (s.setLogicResult x b) := by
  unfold State.setLogicResult
  split
  · exact (setV_frame s x b).trans (setV_frame _ regF 0)
  · exact setV_frame s x b

theorem toNat_flagByte (c : Bool) : (flagByte c).toNat = if c then 1 else 0 := by cases c <;> rfl

theorem toNat_add8 (a b : Byte) : (add8 a b).toNat = (a.toNat + b.toNat) % 256 := by
  simp [add8, BitVec.toNat_ofNat]

theorem toNat_sub8 (a b : Byte) : (sub8 a b).toNat = (256 + a.toNat - b.toNat) % 256 := by
  have := a.isLt
  have := b.isLt
  simp only [sub8, BitVec.toNat_ofInt]
  omega

/-! ### index-relative accesses -/

/-- A store from I on raises WRITE_OOB, or writes its bytes and applies the index update (R162, R229). -/
theorem storeAtI_cases (bytes : List Byte) (s : State) (after : State → State) :
    (0 < bytes.length ∧ s.cfg.memSize < s.I.toNat + bytes.length ∧
      storeAtI bytes s after = .next (raise (.writeOob (max s.I.toNat s.cfg.memSize) s.I.toNat bytes.length) s)) ∨
    ((bytes.length = 0 ∨ s.I.toNat + bytes.length ≤ s.cfg.memSize) ∧
      storeAtI bytes s after = .next (after (s.setMem (s.mem.writeBytes s.I.toNat bytes)))) := by
  unfold storeAtI
  split
  · rename_i a h
    obtain ⟨h1, h2, rfl⟩ := (rangeFault_eq_some _ _ _ _).1 h
    exact .inl ⟨h1, h2, rfl⟩
  · rename_i h
    exact .inr ⟨(rangeFault_eq_none _ _ _).1 h, rfl⟩

/-- The index update of FX55 and FX65 (R165). -/
theorem bumpI_I (x : Reg) (s : State) :
    (State.bumpI x s).I = if s.cfg.qMemIncrI = true then s.indexPlus (x.val + 1) else s.I := by
  unfold State.bumpI
  split <;> rfl

theorem bumpI_frame (x : Reg) (s : State) : UnchangedBut [.I] s (State.bumpI x s) := by
  unfold State.bumpI
  split
  · exact setI_frame s _
  · exact UnchangedBut.refl _ s

@[simp] theorem bcdDigits_length (v : Byte) : (bcdDigits v).length = 3 := rfl

@[simp] theorem regsUpTo_length (s : State) (x : Reg) : (s.regsUpTo x).length = x.val + 1 := by
  have := x.isLt
  simp [State.regsUpTo, this]

/-- The bytes FX55 stores: byte k is V[k] (R167). -/
theorem regsUpTo_getElem? (s : State) (x k : Reg) (h : k ≤ x) : (s.regsUpTo x)[k.val]? = some (s.getV k) := by
  have hk := k.isLt
  have : k.val < x.val + 1 := Nat.lt_succ_of_le h
  rw [State.regsUpTo, List.getElem?_take_of_lt this, Vector.getElem?_toList]
  exact Vector.getElem?_eq_getElem hk

/-- A key skip raises KEY_INDEX_RANGE, or skips on the key's state (R200, R201, R202). -/
theorem skipOnKey_cases (x : Reg) (wanted : Bool) (s : State) :
    (15 < (s.getV x).toNat ∧ skipOnKey x wanted s = .next (raise (.keyIndexRange (s.getV x).toNat) s)) ∨
    ((s.getV x).toNat ≤ 15 ∧
      skipOnKey x wanted s = .next (s.skipIf (s.keyDown (s.getV x).toNat == wanted))) := by
  unfold skipOnKey
  split
  · exact .inl ⟨‹_›, rfl⟩
  · exact .inr ⟨by omega, rfl⟩

/-! ### one operation -/

/-- The fetch faults on the lowest address that does not exist, or reads a word and advances PC by 2 (R100). -/
theorem fetch_cases (s : State) :
    (s.cfg.memSize ≤ s.PC ∧ fetch s = .error s.PC) ∨
    (s.PC + 1 = s.cfg.memSize ∧ fetch s = .error (s.PC + 1)) ∨
    (s.PC + 1 < s.cfg.memSize ∧
      fetch s = .ok (s.wordAt s.PC,
        { s with PC := s.PC + 2, cur := { s.cur with word := some (s.wordAt s.PC) } })) := by
  unfold fetch
  split
  · exact .inl ⟨‹_›, rfl⟩
  · split
    · exact .inr (.inl ⟨by omega, rfl⟩)
    · exact .inr (.inr ⟨by omega, rfl⟩)

@[simp] theorem nextOp_nil {s : State} (h : s.ops = []) : nextOp s = (.idle, s) := by simp [nextOp, h]

@[simp] theorem nextOp_step {s : State} {keys : BitVec 16} {rnd : Byte} {rest : List HostOp}
    (h : s.ops = .step keys rnd :: rest) : nextOp s = (.step keys rnd, { s with ops := rest }) := by
  simp [nextOp, h]

@[simp] theorem nextOp_stepAny {s : State} {rest : List HostOp} (h : s.ops = .stepAny :: rest) :
    nextOp s =
      (.step (Config.freeKeys s.draws) (Config.freeRnd s.draws), { s with ops := rest, draws := s.draws + 1 }) := by
  simp [nextOp, h]

@[simp] theorem nextOp_tick {s : State} {rest : List HostOp} (h : s.ops = .tick :: rest) :
    nextOp s = (.tick, { s with ops := rest }) := by
  simp [nextOp, h]

/-- No operation is issued, or the schedule's first one is taken off it, with its inputs (R222, R241; log 4). -/
theorem nextOp_cases (s : State) :
    (s.ops = [] ∧ nextOp s = (.idle, s)) ∨
    (∃ keys rnd rest, s.ops = .step keys rnd :: rest ∧ nextOp s = (.step keys rnd, { s with ops := rest })) ∨
    (∃ rest, s.ops = .stepAny :: rest ∧ nextOp s =
      (.step (Config.freeKeys s.draws) (Config.freeRnd s.draws), { s with ops := rest, draws := s.draws + 1 })) ∨
    ∃ rest, s.ops = .tick :: rest ∧ nextOp s = (.tick, { s with ops := rest }) := by
  match h : s.ops with
  | [] => exact .inl ⟨rfl, nextOp_nil h⟩
  | .step keys rnd :: rest => exact .inr (.inl ⟨keys, rnd, rest, rfl, nextOp_step h⟩)
  | .stepAny :: rest => exact .inr (.inr (.inl ⟨rest, rfl, nextOp_stepAny h⟩))
  | .tick :: rest => exact .inr (.inr (.inr ⟨rest, rfl, nextOp_tick h⟩))

/-- After a word is placed, the next operation is a Step (log 11). -/
theorem stepDue_cases (ops : List HostOp) :
    (∃ keys rnd rest, stepDue ops = .step keys rnd :: rest) ∨ ∃ rest, stepDue ops = .stepAny :: rest := by
  induction ops with
  | nil => exact .inr ⟨[], rfl⟩
  | cons op rest ih =>
    cases op with
    | step keys rnd => exact .inl ⟨keys, rnd, rest, rfl⟩
    | stepAny => exact .inr ⟨rest, rfl⟩
    | tick => exact ih

/-- Taking the next operation changes the schedule and the counter alone. -/
theorem nextOp_frame (s : State) : UnchangedBut [.host] s (nextOp s).2 := by
  unfold nextOp
  split
  all_goals
    intro c hc
    cases c <;> simp_all [Component.agree, State.getV, State.byteAt]

end Sys2Proof.Machine
end

