-- ==== Sys2Proof/Laws/Display.lean ====
section
/-! SUPPORT. The framebuffer (43_display.md R185), the cells of a sprite (R181 to R183) and what a run of
`set_pixel_xor` calls does (R184). -/

namespace Sys2Proof.Machine

/-- A pixel read after a pixel write. -/
@[simp] theorem pixelOn_putPixel (fb : Framebuffer) (p q : Pixel) (b : Bool) :
    pixelOn (putPixel fb p b) q = if q = p then b else pixelOn fb q := by
  obtain ⟨px, py⟩ := p
  obtain ⟨qx, qy⟩ := q
  by_cases hx : qx = px
  · subst hx
    by_cases hy : qy = py
    · subst hy; simp [pixelOn, putPixel]
    · have : py.val ≠ qy.val := fun e => hy (Fin.ext e.symm)
      simp [pixelOn, putPixel, hy, this]
  · have : px.val ≠ qx.val := fun e => hx (Fin.ext e.symm)
    simp [pixelOn, putPixel, hx, this]

@[simp] theorem pixelOn_clearScreen (p : Pixel) : pixelOn clearScreen p = false := by
  simp [pixelOn, clearScreen]

/-- Two framebuffers with the same pixels are equal. -/
theorem framebuffer_ext {fb fb' : Framebuffer} (h : ∀ p, pixelOn fb p = pixelOn fb' p) : fb = fb' := by
  apply Vector.ext
  intro x hx
  apply Vector.ext
  intro y hy
  exact h (⟨x, hx⟩, ⟨y, hy⟩)

/-- Over distinct cells, the XOR run flips each of them once, and its result is the OR of the collisions (R184). -/
theorem xorPixels_spec (ps : List Pixel) (h : ps.Nodup) (fb : Framebuffer) (c : Bool) :
    (∀ q, pixelOn (xorPixels ps fb c).1 q = Bool.xor (pixelOn fb q) (decide (q ∈ ps))) ∧
    (xorPixels ps fb c).2 = (c || ps.any (pixelOn fb)) := by
  induction ps generalizing fb c with
  | nil => simp [xorPixels]
  | cons p ps ih =>
    rw [List.nodup_cons] at h
    obtain ⟨h1, h2⟩ := ih h.2 (setPixelXor fb p).1 (c || (setPixelXor fb p).2)
    constructor
    · intro q
      rw [xorPixels, h1]
      by_cases hq : q = p
      · subst hq; simp [setPixelXor, h.1]
      · simp [setPixelXor, hq]
    · have hrest : ps.any (pixelOn (setPixelXor fb p).1) = ps.any (pixelOn fb) := by
        rw [Bool.eq_iff_iff, List.any_eq_true, List.any_eq_true]
        refine exists_congr fun q => and_congr_right fun hq => ?_
        have hne : q ≠ p := fun e => h.1 (e ▸ hq)
        simp [setPixelXor, hne]
      rw [xorPixels, h2, hrest, List.any_cons, Bool.or_assoc]
      rfl

/-- The cells of a sprite: one for each set bit that is not dropped (R181, R182, R183). -/
theorem mem_spritePixels (edge : DrawEdge) (m : Memory) (base n x0 y0 : Nat) (p : Pixel) :
    p ∈ spritePixels edge m base n x0 y0 ↔
      ∃ r < n, ∃ c < 8, spriteBit (m.read (base + r)) c = true ∧ place edge (x0 + c) (y0 + r) = some p := by
  simp only [spritePixels, rowPixels, List.mem_flatMap, List.mem_range, List.mem_filterMap]
  constructor
  · rintro ⟨r, hr, c, hc, h⟩
    split at h
    · exact ⟨r, hr, c, hc, ‹_›, h⟩
    · cases h
  · rintro ⟨r, hr, c, hc, hb, h⟩
    exact ⟨r, hr, c, hc, by simp [hb, h]⟩

end Sys2Proof.Machine
end

