-- ==== Sys2Proof/Laws/PerInstr.lean ====
section
/-! SUPPORT. Statements made for every instruction, one lemma per constructor. -/

namespace Sys2Proof.Laws

/-! ### Masks and fields -/

theorem and_F000 (w : Word) : w &&& 0xF000#16 = (w >>> 12) <<< 12 := by
  ext i hi
  interval_cases i <;> simp

theorem and_F00F (w : Word) : w &&& 0xF00F#16 = (w &&& 0xF000#16) ||| (w &&& 0x000F#16) := by
  rw [← BitVec.and_or_distrib_left]; rfl

theorem and_F0FF (w : Word) : w &&& 0xF0FF#16 = (w &&& 0xF000#16) ||| (w &&& 0x00FF#16) := by
  rw [← BitVec.and_or_distrib_left]; rfl

/-- The family nibble in place, from the word's value. -/
theorem family_of_toNat (w : Word) (op : Nat) (h : w.toNat / 4096 = op) :
    w &&& 0xF000#16 = BitVec.ofNat 16 op <<< 12 := by
  have : w >>> 12 = BitVec.ofNat 16 op := by
    apply BitVec.eq_of_toNat_eq
    have := w.isLt
    simp only [BitVec.toNat_ushiftRight, Nat.shiftRight_eq_div_pow, BitVec.toNat_ofNat]
    omega
  rw [and_F000, this]

theorem low_nibble_of_toNat (w : Word) (n : Nat) (h : w.toNat % 16 = n) : w &&& 0x000F#16 = BitVec.ofNat 16 n := by
  apply BitVec.eq_of_toNat_eq
  have : w.toNat &&& 15 = w.toNat % 16 := Nat.and_two_pow_sub_one_eq_mod w.toNat 4
  simp only [BitVec.toNat_and, BitVec.toNat_ofNat, Nat.reduceMod, Nat.reducePow, this]
  have := w.isLt
  omega

theorem low_byte_of_toNat (w : Word) (n : Nat) (h : w.toNat % 256 = n) : w &&& 0x00FF#16 = BitVec.ofNat 16 n := by
  apply BitVec.eq_of_toNat_eq
  have : w.toNat &&& 255 = w.toNat % 256 := Nat.and_two_pow_sub_one_eq_mod w.toNat 8
  simp only [BitVec.toNat_and, BitVec.toNat_ofNat, Nat.reduceMod, Nat.reducePow, this]
  have := w.isLt
  omega

theorem toNat_packA12 (op nnn : Nat) (h : op < 16) : (packA12 op nnn).toNat = op * 4096 + nnn % 4096 := by
  simp only [packA12, BitVec.toNat_ofNat]; omega

theorem toNat_packXNN (op : Nat) (x : Reg) (nn : Byte) (h : op < 16) :
    (packXNN op x nn).toNat = op * 4096 + x.val * 256 + nn.toNat := by
  have := x.isLt
  have := nn.isLt
  simp only [packXNN, BitVec.toNat_ofNat]; omega

theorem toNat_packXYN (op : Nat) (x y : Reg) (n : Nat) (h : op < 16) :
    (packXYN op x y n).toNat = op * 4096 + x.val * 256 + y.val * 16 + n % 16 := by
  have := x.isLt
  have := y.isLt
  simp only [packXYN, BitVec.toNat_ofNat]; omega

/-- A word of format A12 under the mask of its row. -/
theorem packA12_row (op nnn : Nat) (h : op < 16) : packA12 op nnn &&& 0xF000#16 = BitVec.ofNat 16 op <<< 12 := by
  apply family_of_toNat
  rw [toNat_packA12 op nnn h]; omega

/-- A word of format XNN under the mask of its row. -/
theorem packXNN_row (op : Nat) (x : Reg) (nn : Byte) (h : op < 16) :
    packXNN op x nn &&& 0xF000#16 = BitVec.ofNat 16 op <<< 12 := by
  apply family_of_toNat
  have := x.isLt
  have := nn.isLt
  rw [toNat_packXNN op x nn h]; omega

/-- A word of format XF8 under the mask of its row. -/
theorem packXF8_row (op : Nat) (x : Reg) (nn : Byte) (h : op < 16) :
    packXNN op x nn &&& 0xF0FF#16 = BitVec.ofNat 16 op <<< 12 ||| BitVec.ofNat 16 nn.toNat := by
  have := nn.isLt
  rw [and_F0FF, packXNN_row op x nn h, low_byte_of_toNat (packXNN op x nn) nn.toNat]
  rw [toNat_packXNN op x nn h]; omega

/-- A word of format XYN under the mask of its row. -/
theorem packXYN_family (op : Nat) (x y : Reg) (n : Nat) (h : op < 16) :
    packXYN op x y n &&& 0xF000#16 = BitVec.ofNat 16 op <<< 12 := by
  apply family_of_toNat
  have := x.isLt
  have := y.isLt
  rw [toNat_packXYN op x y n h]; omega

/-- A word of format XY0 or XYF under the mask of its row. -/
theorem packXYF_row (op : Nat) (x y : Reg) (n : Nat) (h : op < 16) :
    packXYN op x y n &&& 0xF00F#16 = BitVec.ofNat 16 op <<< 12 ||| BitVec.ofNat 16 (n % 16) := by
  rw [and_F00F, packXYN_family op x y n h, low_nibble_of_toNat (packXYN op x y n) (n % 16)]
  rw [toNat_packXYN op x y n h]; omega

/-! ### The family EncodesItsRow -/

/-- The encoding of an instruction is a word of the row of spec/opcode_table.json with its mnemonic. -/
def EncodesItsRow.Statement (i : Instr) : Prop :=
  ∃ row ∈ opcodeTable, row.mnemonic = i.mnemonic ∧ row.covers (encode i)

theorem EncodesItsRow.cls : EncodesItsRow.Statement (.cls) :=
  ⟨⟨"CLS", 0xFFFF, 0x00E0⟩, by decide, rfl, rfl⟩

theorem EncodesItsRow.ret : EncodesItsRow.Statement (.ret) :=
  ⟨⟨"RET", 0xFFFF, 0x00EE⟩, by decide, rfl, rfl⟩

theorem EncodesItsRow.jp (nnn : Nat) : EncodesItsRow.Statement (.jp nnn) :=
  ⟨⟨"JP", 0xF000, 0x1000⟩, by decide, rfl, packA12_row 1 _ (by decide)⟩

theorem EncodesItsRow.call (nnn : Nat) : EncodesItsRow.Statement (.call nnn) :=
  ⟨⟨"CALL", 0xF000, 0x2000⟩, by decide, rfl, packA12_row 2 _ (by decide)⟩

theorem EncodesItsRow.seVxNn (x : Reg) (nn : Byte) : EncodesItsRow.Statement (.seVxNn x nn) :=
  ⟨⟨"SE_VX_NN", 0xF000, 0x3000⟩, by decide, rfl, packXNN_row 3 _ _ (by decide)⟩

theorem EncodesItsRow.sneVxNn (x : Reg) (nn : Byte) : EncodesItsRow.Statement (.sneVxNn x nn) :=
  ⟨⟨"SNE_VX_NN", 0xF000, 0x4000⟩, by decide, rfl, packXNN_row 4 _ _ (by decide)⟩

theorem EncodesItsRow.seVxVy (x y : Reg) : EncodesItsRow.Statement (.seVxVy x y) :=
  ⟨⟨"SE_VX_VY", 0xF00F, 0x5000⟩, by decide, rfl, packXYF_row 5 _ _ _ (by decide)⟩

theorem EncodesItsRow.ldVxNn (x : Reg) (nn : Byte) : EncodesItsRow.Statement (.ldVxNn x nn) :=
  ⟨⟨"LD_VX_NN", 0xF000, 0x6000⟩, by decide, rfl, packXNN_row 6 _ _ (by decide)⟩

theorem EncodesItsRow.addVxNn (x : Reg) (nn : Byte) : EncodesItsRow.Statement (.addVxNn x nn) :=
  ⟨⟨"ADD_VX_NN", 0xF000, 0x7000⟩, by decide, rfl, packXNN_row 7 _ _ (by decide)⟩

theorem EncodesItsRow.ldVxVy (x y : Reg) : EncodesItsRow.Statement (.ldVxVy x y) :=
  ⟨⟨"LD_VX_VY", 0xF00F, 0x8000⟩, by decide, rfl, packXYF_row 8 _ _ _ (by decide)⟩

theorem EncodesItsRow.or (x y : Reg) : EncodesItsRow.Statement (.or x y) :=
  ⟨⟨"OR", 0xF00F, 0x8001⟩, by decide, rfl, packXYF_row 8 _ _ _ (by decide)⟩

theorem EncodesItsRow.and (x y : Reg) : EncodesItsRow.Statement (.and x y) :=
  ⟨⟨"AND", 0xF00F, 0x8002⟩, by decide, rfl, packXYF_row 8 _ _ _ (by decide)⟩

theorem EncodesItsRow.xor (x y : Reg) : EncodesItsRow.Statement (.xor x y) :=
  ⟨⟨"XOR", 0xF00F, 0x8003⟩, by decide, rfl, packXYF_row 8 _ _ _ (by decide)⟩

theorem EncodesItsRow.addVxVy (x y : Reg) : EncodesItsRow.Statement (.addVxVy x y) :=
  ⟨⟨"ADD_VX_VY", 0xF00F, 0x8004⟩, by decide, rfl, packXYF_row 8 _ _ _ (by decide)⟩

theorem EncodesItsRow.sub (x y : Reg) : EncodesItsRow.Statement (.sub x y) :=
  ⟨⟨"SUB", 0xF00F, 0x8005⟩, by decide, rfl, packXYF_row 8 _ _ _ (by decide)⟩

theorem EncodesItsRow.shr (x y : Reg) : EncodesItsRow.Statement (.shr x y) :=
  ⟨⟨"SHR", 0xF00F, 0x8006⟩, by decide, rfl, packXYF_row 8 _ _ _ (by decide)⟩

theorem EncodesItsRow.subn (x y : Reg) : EncodesItsRow.Statement (.subn x y) :=
  ⟨⟨"SUBN", 0xF00F, 0x8007⟩, by decide, rfl, packXYF_row 8 _ _ _ (by decide)⟩

theorem EncodesItsRow.shl (x y : Reg) : EncodesItsRow.Statement (.shl x y) :=
  ⟨⟨"SHL", 0xF00F, 0x800E⟩, by decide, rfl, packXYF_row 8 _ _ _ (by decide)⟩

theorem EncodesItsRow.sneVxVy (x y : Reg) : EncodesItsRow.Statement (.sneVxVy x y) :=
  ⟨⟨"SNE_VX_VY", 0xF00F, 0x9000⟩, by decide, rfl, packXYF_row 9 _ _ _ (by decide)⟩

theorem EncodesItsRow.ldINnn (nnn : Nat) : EncodesItsRow.Statement (.ldINnn nnn) :=
  ⟨⟨"LD_I_NNN", 0xF000, 0xA000⟩, by decide, rfl, packA12_row 10 _ (by decide)⟩

theorem EncodesItsRow.jpV0Nnn (nnn : Nat) : EncodesItsRow.Statement (.jpV0Nnn nnn) :=
  ⟨⟨"JP_V0_NNN", 0xF000, 0xB000⟩, by decide, rfl, packA12_row 11 _ (by decide)⟩

theorem EncodesItsRow.rnd (x : Reg) (nn : Byte) : EncodesItsRow.Statement (.rnd x nn) :=
  ⟨⟨"RND", 0xF000, 0xC000⟩, by decide, rfl, packXNN_row 12 _ _ (by decide)⟩

theorem EncodesItsRow.drw (x y : Reg) (n : Nat) : EncodesItsRow.Statement (.drw x y n) :=
  ⟨⟨"DRW", 0xF000, 0xD000⟩, by decide, rfl, packXYN_family 13 _ _ _ (by decide)⟩

theorem EncodesItsRow.skp (x : Reg) : EncodesItsRow.Statement (.skp x) :=
  ⟨⟨"SKP", 0xF0FF, 0xE09E⟩, by decide, rfl, packXF8_row 14 _ _ (by decide)⟩

theorem EncodesItsRow.sknp (x : Reg) : EncodesItsRow.Statement (.sknp x) :=
  ⟨⟨"SKNP", 0xF0FF, 0xE0A1⟩, by decide, rfl, packXF8_row 14 _ _ (by decide)⟩

theorem EncodesItsRow.ldVxDt (x : Reg) : EncodesItsRow.Statement (.ldVxDt x) :=
  ⟨⟨"LD_VX_DT", 0xF0FF, 0xF007⟩, by decide, rfl, packXF8_row 15 _ _ (by decide)⟩

theorem EncodesItsRow.ldDtVx (x : Reg) : EncodesItsRow.Statement (.ldDtVx x) :=
  ⟨⟨"LD_DT_VX", 0xF0FF, 0xF015⟩, by decide, rfl, packXF8_row 15 _ _ (by decide)⟩

theorem EncodesItsRow.ldStVx (x : Reg) : EncodesItsRow.Statement (.ldStVx x) :=
  ⟨⟨"LD_ST_VX", 0xF0FF, 0xF018⟩, by decide, rfl, packXF8_row 15 _ _ (by decide)⟩

theorem EncodesItsRow.addIVx (x : Reg) : EncodesItsRow.Statement (.addIVx x) :=
  ⟨⟨"ADD_I_VX", 0xF0FF, 0xF01E⟩, by decide, rfl, packXF8_row 15 _ _ (by decide)⟩

theorem EncodesItsRow.ldBVx (x : Reg) : EncodesItsRow.Statement (.ldBVx x) :=
  ⟨⟨"LD_B_VX", 0xF0FF, 0xF033⟩, by decide, rfl, packXF8_row 15 _ _ (by decide)⟩

theorem EncodesItsRow.ldMemIVx (x : Reg) : EncodesItsRow.Statement (.ldMemIVx x) :=
  ⟨⟨"LD_MEM_I_VX", 0xF0FF, 0xF055⟩, by decide, rfl, packXF8_row 15 _ _ (by decide)⟩

theorem EncodesItsRow.ldVxMemI (x : Reg) : EncodesItsRow.Statement (.ldVxMemI x) :=
  ⟨⟨"LD_VX_MEM_I", 0xF0FF, 0xF065⟩, by decide, rfl, packXF8_row 15 _ _ (by decide)⟩

end Sys2Proof.Laws
end

