-- ==== Sys2Proof/Laws/Step.lean ====
section
/-! SUPPORT. What one operation can do, said once: every later fact about `step` starts from these. -/

namespace Sys2Proof.Machine

/-- The address a fetch faults on (R100): PC, or PC + 1 when only that one does not exist. -/
def fetchFaultAddr (s : State) : Nat := if s.cfg.memSize ≤ s.PC then s.PC else s.PC + 1

/-- The state in which the instruction fetched from PC runs (R18, R100). -/
def fetched (keys : BitVec 16) (rnd : Byte) (s : State) : State :=
  { s with PC := s.PC + 2, cur := ⟨s.PC, some (s.wordAt s.PC), keys, rnd⟩ }

/-- A Step faults at its fetch, runs the decoded instruction, or reports an unknown word (R101). -/
theorem runStep_cases (keys : BitVec 16) (rnd : Byte) (s : State) :
    (s.cfg.memSize ≤ s.PC + 1 ∧
      runStep keys rnd s =
        .next (raise (.fetchOob (fetchFaultAddr s)) (beginStep keys rnd s)).retire) ∨
    (s.PC + 1 < s.cfg.memSize ∧ ∃ i, decode (s.wordAt s.PC) = .ok i ∧
      runStep keys rnd s = retired (exec i (fetched keys rnd s))) ∨
    (s.PC + 1 < s.cfg.memSize ∧ ∃ c, decode (s.wordAt s.PC) = .error c ∧
      runStep keys rnd s =
        .next ((fetched keys rnd s).report (.unknownOpcode s.PC (s.wordAt s.PC))).retire) := by
  rcases fetch_cases (beginStep keys rnd s) with ⟨h, hf⟩ | ⟨h, hf⟩ | ⟨h, hf⟩
  · left
    simp only [beginStep_cfg, beginStep_PC] at h
    refine ⟨by omega, ?_⟩
    simp [runStep, hf, retired, fetchFaultAddr, h]
  · left
    simp only [beginStep_cfg, beginStep_PC] at h
    have hn : ¬ s.cfg.memSize ≤ s.PC := by omega
    refine ⟨by omega, ?_⟩
    simp [runStep, hf, retired, fetchFaultAddr, hn]
  · right
    simp only [beginStep_cfg, beginStep_PC] at h
    have hw : (beginStep keys rnd s).wordAt (beginStep keys rnd s).PC = s.wordAt s.PC := rfl
    rw [hw] at hf
    cases hd : decode (s.wordAt s.PC) with
    | ok i =>
      left
      refine ⟨h, i, rfl, ?_⟩
      simp only [runStep, hf, hd]
      rfl
    | error c =>
      right
      refine ⟨h, c, rfl, ?_⟩
      simp only [runStep, hf, hd]
      rfl

/-- A step that answers a next state: the state was running, and it is a Step or a Tick of the schedule (R222), or
no operation is issued and the state stays as it is (R241). -/
theorem step_cases {s t : State} (h : step s = .next t) :
    s.status = .running ∧
    ((∃ keys rnd, (nextOp s).1 = .step keys rnd ∧ runStep keys rnd (nextOp s).2 = .next t) ∨
     ((nextOp s).1 = .tick ∧ t = tick (nextOp s).2) ∨
     ((nextOp s).1 = .idle ∧ s.ops = [] ∧ t = s)) := by
  unfold step at h
  split at h
  · cases h
  · rename_i hs
    refine ⟨hs, ?_⟩
    rcases nextOp_cases s with ⟨ho, hn⟩ | ⟨keys, rnd, rest, -, hn⟩ | ⟨rest, -, hn⟩ | ⟨rest, -, hn⟩ <;>
      rw [hn] at h ⊢
    · cases h
      exact .inr (.inr ⟨rfl, ho, rfl⟩)
    · exact .inl ⟨keys, rnd, rfl, h⟩
    · exact .inl ⟨_, _, rfl, h⟩
    · cases h
      exact .inr (.inl ⟨rfl, rfl⟩)

/-- In a running state an operation is the one the schedule gives. -/
theorem step_running {s : State} (h : s.status = .running) :
    step s = match (nextOp s).1 with
      | .idle => .next (nextOp s).2
      | .step keys rnd => runStep keys rnd (nextOp s).2
      | .tick => .next (tick (nextOp s).2) := by
  unfold step
  rw [h]
  cases hn : nextOp s with
  | mk op s' => cases op <;> rfl

end Sys2Proof.Machine
end

