-- ==== Sys2Proof/Tests/Slice0.lean ====
section
/-! SUPPORT. The model's own tests: the checks of WellFormed on ill-formed terms, decoding of words written out from
30_encoding.md, one Step per instruction with the values of spec/95_test_vectors.md, and for every statement that has
hypotheses a theorem that shows them met. -/

open Sys2Proof Sys2Proof.Machine Sys2Proof.Claims

namespace Sys2Proof.Tests

/-! ### Helpers -/

/-- The answer is a next state with a property. -/
def Answers (r : Result) (p : State → Bool) : Bool :=
  match r with
  | .next t => p t
  | .fault _ => false
  | .refused _ => false

theorem answers_next {r : Result} {p : State → Bool} (h : Answers r p = true) : ∃ t, r = .next t ∧ p t = true := by
  cases r with
  | next t => exact ⟨t, rfl, h⟩
  | fault _ => cases h
  | refused _ => cases h

/-- The reset state with one Step due: keys up, `rnd` 00 (the start state of spec/95_test_vectors.md). -/
def start : State := { State.reset with ops := [.step 0 0] }

/-- The start state under a configuration. -/
def under (cfg : Config) : State := { start with cfg := cfg }

/-- The start state with a Tick due. -/
def ticking : State := { State.reset with ops := [.tick] }

def regs (l : List (Reg × Byte)) (s : State) : State := l.foldl (fun s p => s.setV p.1 p.2) s

def bytes (a : Nat) (l : List Byte) (s : State) : State := s.setMem (s.mem.writeBytes a l)

def lit (ps : List Pixel) (s : State) : State := s.setFB (ps.foldl (fun fb p => putPixel fb p true) s.FB)

def inputs (keys : BitVec 16) (rnd : Byte) (s : State) : State := { s with ops := [.step keys rnd] }

def stack (l : List Nat) (s : State) : State := { s with S := l }

/-- One whole operation with the word at the PC. -/
def runs (w : Nat) (s : State) (p : State → Bool) : Bool := Answers (step (s.withFetchWord 16 w)) p

def faultedBy (c : FaultCause) (pc : Nat) (w : Option Word) (t : State) : Bool :=
  decide (t.status = .faulted ⟨c, pc, w⟩) && decide (t.PC = pc)

/-! ### WellFormed: each check refuses an ill-formed term (R71, R6, R251) -/

theorem smoke_jp : (Instr.jp 0x1000).wf = false ∧ (Instr.jp 0xFFF).wf = true := by decide
theorem smoke_call : (Instr.call 0x1000).wf = false ∧ (Instr.call 0xFFF).wf = true := by decide
theorem smoke_ldINnn : (Instr.ldINnn 0x1000).wf = false ∧ (Instr.ldINnn 0xFFF).wf = true := by decide
theorem smoke_jpV0Nnn : (Instr.jpV0Nnn 0x1000).wf = false ∧ (Instr.jpV0Nnn 0xFFF).wf = true := by decide
theorem smoke_drw : (Instr.drw 0 0 16).wf = false ∧ (Instr.drw 0 0 15).wf = true := by decide
theorem smoke_memSize_low : ({ memSize := 0x201 } : Config).wf = false ∧ ({ memSize := 0x202 } : Config).wf = true := by
  decide
theorem smoke_memSize_high :
    ({ memSize := 0x10001 } : Config).wf = false ∧ ({ memSize := 0x10000 } : Config).wf = true := by decide
theorem smoke_image :
    ({ memSize := 0x202 } : Config).imageFits [0, 0, 0] = false ∧
    ({ memSize := 0x202 } : Config).imageFits [0, 0] = true := by decide
theorem smoke_memory :
    ¬Memory.wf [(1, 0)] ∧ ¬Memory.wf [(2, 1), (1, 1)] ∧ ¬Memory.wf [(1, 1), (1, 2)] ∧ Memory.wf [(1, 1), (2, 1)] := by
  decide

/-! ### Decoding: each word is written out bit by bit from the formats and rows of 30_encoding.md (R72, R76) -/

theorem decode_cls : decode 0b0000000011100000 = .ok .cls := by decide
theorem decode_ret : decode 0b0000000011101110 = .ok .ret := by decide
theorem decode_jp : decode 0b0001101010111100 = .ok (.jp 0b101010111100) := by decide
theorem decode_call : decode 0b0010010000000110 = .ok (.call 0b010000000110) := by decide
theorem decode_seVxNn : decode 0b0011001100010000 = .ok (.seVxNn 3 0b00010000) := by decide
theorem decode_sneVxNn : decode 0b0100001100010001 = .ok (.sneVxNn 3 0b00010001) := by decide
theorem decode_seVxVy : decode 0b0101000100100000 = .ok (.seVxVy 1 2) := by decide
theorem decode_ldVxNn : decode 0b0110101011111111 = .ok (.ldVxNn 10 0b11111111) := by decide
theorem decode_addVxNn : decode 0b0111111110000001 = .ok (.addVxNn 15 0b10000001) := by decide
theorem decode_ldVxVy : decode 0b1000000111100000 = .ok (.ldVxVy 1 14) := by decide
theorem decode_or : decode 0b1000001011010001 = .ok (.or 2 13) := by decide
theorem decode_and : decode 0b1000001111000010 = .ok (.and 3 12) := by decide
theorem decode_xor : decode 0b1000010010110011 = .ok (.xor 4 11) := by decide
theorem decode_addVxVy : decode 0b1000010110100100 = .ok (.addVxVy 5 10) := by decide
theorem decode_sub : decode 0b1000011010010101 = .ok (.sub 6 9) := by decide
theorem decode_shr : decode 0b1000011110000110 = .ok (.shr 7 8) := by decide
theorem decode_subn : decode 0b1000100001110111 = .ok (.subn 8 7) := by decide
theorem decode_shl : decode 0b1000100101101110 = .ok (.shl 9 6) := by decide
theorem decode_sneVxVy : decode 0b1001000100100000 = .ok (.sneVxVy 1 2) := by decide
theorem decode_ldINnn : decode 0b1010001100000001 = .ok (.ldINnn 0b001100000001) := by decide
theorem decode_jpV0Nnn : decode 0b1011111111111110 = .ok (.jpV0Nnn 0b111111111110) := by decide
theorem decode_rnd : decode 0b1100001100001111 = .ok (.rnd 3 0b00001111) := by decide
theorem decode_drw : decode 0b1101001000110101 = .ok (.drw 2 3 5) := by decide
theorem decode_skp : decode 0b1110001010011110 = .ok (.skp 2) := by decide
theorem decode_sknp : decode 0b1110001010100001 = .ok (.sknp 2) := by decide
theorem decode_ldVxDt : decode 0b1111010100000111 = .ok (.ldVxDt 5) := by decide
theorem decode_ldDtVx : decode 0b1111010100010101 = .ok (.ldDtVx 5) := by decide
theorem decode_ldStVx : decode 0b1111000100011000 = .ok (.ldStVx 1) := by decide
theorem decode_addIVx : decode 0b1111001000011110 = .ok (.addIVx 2) := by decide
theorem decode_ldBVx : decode 0b1111000000110011 = .ok (.ldBVx 0) := by decide
theorem decode_ldMemIVx : decode 0b1111111101010101 = .ok (.ldMemIVx 15) := by decide
theorem decode_ldVxMemI : decode 0b1111001001100101 = .ok (.ldVxMemI 2) := by decide

/-- One word of each unknown class, V-U0000 to V-UFFFF. -/
theorem decode_unknown :
    decode 0x0000 = .error .family0 ∧ decode 0x00E1 = .error .family0 ∧ decode 0x5121 = .error .family5 ∧
    decode 0x8008 = .error .family8 ∧ decode 0x9121 = .error .family9 ∧ decode 0xE000 = .error .familyE ∧
    decode 0xF029 = .error .familyF ∧ decode 0xFFFF = .error .familyF := by decide

/-- R53, R70: two bytes, the high byte first; fewer than two are no instruction. -/
theorem decode_bytes :
    decodeBytes [0x12, 0x34, 0x56] = .ok (.jp 0x234, [0x56]) ∧ decodeBytes [0x12] = .error .truncated ∧
    encodeBytes (.jp 0x234) = [0x12, 0x34] := by decide

theorem decode_tableWord :
    decodeTableWord 16 0xD235 = some (.drw 2 3 5) ∧ decodeTableWord 16 0xF00A = none := by decide

/-! ### One Step per instruction; the expected values are those of the vector named (spec/95_test_vectors.md) -/

/-- V-D1. -/
theorem test_cls : runs 0x00E0 (lit [(5, 5), (63, 31)] start)
    (fun t => !pixelOn t.FB (5, 5) && !pixelOn t.FB (63, 31) && t.PC == 0x202) = true := by decide

/-- V-C1. -/
theorem test_ret : runs 0x00EE (stack [0x206] (start.setPC 0x20E)) (fun t => t.PC == 0x206 && t.S == []) = true := by
  decide

/-- V-C2. -/
theorem test_ret_underflow : runs 0x00EE start (faultedBy .stackUnderflow 0x200 (some 0x00EE)) = true := by decide

/-- V-C3. -/
theorem test_jp : runs 0x1ABC start (fun t => t.PC == 0xABC) = true := by decide

/-- V-C5. -/
theorem test_call_deep : runs 0x2400 (stack (List.replicate 16 0x202) start)
    (fun t => t.PC == 0x400 && t.S == List.replicate 17 0x202 && t.diag == [.stackDeep 17]) = true := by decide

/-- V-C6. -/
theorem test_call_overflow : runs 0x2400 (stack [0x300, 0x302] (under { stackCapacity := some 2 }))
    (faultedBy (.stackOverflow 2) 0x200 (some 0x2400)) = true := by decide

/-- V-C10, V-C11. -/
theorem test_seVxNn : runs 0x3310 (regs [(3, 0x10)] start) (fun t => t.PC == 0x204) = true ∧
    runs 0x3310 (regs [(3, 0x11)] start) (fun t => t.PC == 0x202) = true := by decide

/-- V-C12, V-C13. -/
theorem test_sneVxNn : runs 0x4310 (regs [(3, 0x10)] start) (fun t => t.PC == 0x202) = true ∧
    runs 0x4310 (regs [(3, 0x11)] start) (fun t => t.PC == 0x204) = true := by decide

/-- V-C14, V-C15. -/
theorem test_seVxVy : runs 0x5120 (regs [(1, 7), (2, 7)] start) (fun t => t.PC == 0x204) = true ∧
    runs 0x5120 (regs [(1, 7), (2, 8)] start) (fun t => t.PC == 0x202) = true := by decide

/-- V-C16, V-C17. -/
theorem test_sneVxVy : runs 0x9120 (regs [(1, 7), (2, 8)] start) (fun t => t.PC == 0x204) = true ∧
    runs 0x9120 (regs [(1, 7), (2, 7)] start) (fun t => t.PC == 0x202) = true := by decide

/-- V-C24: MEM_SIZE = 0x10000, the PC is not wrapped. -/
theorem test_skip_at_top : runs 0x3000 ((under { memSize := 0x10000 }).setPC 0xFFFE)
    (fun t => t.PC == 0x10002) = true := by decide

/-- V-C8. -/
theorem test_jpV0Nnn : runs 0xBFFF (regs [(0, 0xFF)] start) (fun t => t.PC == 0x10FE) = true := by decide

/-- V-A2. -/
theorem test_ldVxNn : runs 0x6F12 (regs [(15, 1)] start) (fun t => t.getV 15 == 0x12 && t.PC == 0x202) = true := by
  decide

/-- V-A3. -/
theorem test_addVxNn : runs 0x7001 (regs [(0, 0xFF), (15, 5)] start)
    (fun t => t.getV 0 == 0 && t.getV 15 == 5) = true := by decide

/-- V-A6. -/
theorem test_ldVxVy : runs 0x8010 (regs [(1, 0x3C)] start) (fun t => t.getV 0 == 0x3C && t.getV 1 == 0x3C) = true := by
  decide

/-- V-A7, V-A8. -/
theorem test_or : runs 0x8011 (regs [(0, 0xF0), (1, 0x0F), (15, 5)] start)
      (fun t => t.getV 0 == 0xFF && t.getV 15 == 5) = true ∧
    runs 0x8011 (regs [(0, 0xF0), (1, 0x0F), (15, 5)] (under { qLogicVfReset := true }))
      (fun t => t.getV 0 == 0xFF && t.getV 15 == 0) = true := by decide

/-- V-A9. -/
theorem test_and : runs 0x8012 (regs [(0, 0xF0), (1, 0x3C), (15, 5)] start)
    (fun t => t.getV 0 == 0x30 && t.getV 15 == 5) = true := by decide

/-- V-A10. -/
theorem test_xor : runs 0x8013 (regs [(0, 0xF0), (1, 0x3C), (15, 5)] start)
    (fun t => t.getV 0 == 0xCC && t.getV 15 == 5) = true := by decide

/-- W2. -/
theorem test_addVxVy : runs 0x8014 (regs [(0, 0xFF), (1, 1)] start) (fun t => t.getV 0 == 0 && t.getV 15 == 1) = true ∧
    runs 0x8014 (regs [(0, 1), (1, 1)] start) (fun t => t.getV 0 == 2 && t.getV 15 == 0) = true := by decide

/-- V-A17, V-A19: VF as destination and as source. -/
theorem test_addVxVy_vf : runs 0x8F14 (regs [(15, 0xFF), (1, 1)] start) (fun t => t.getV 15 == 1) = true ∧
    runs 0x80F4 (regs [(0, 0x10), (15, 0xF0)] start) (fun t => t.getV 0 == 0 && t.getV 15 == 1) = true := by decide

/-- W3. -/
theorem test_sub : runs 0x8015 (regs [(0, 5), (1, 5)] start) (fun t => t.getV 0 == 0 && t.getV 15 == 1) = true ∧
    runs 0x8015 (regs [(0, 3), (1, 5)] start) (fun t => t.getV 0 == 0xFE && t.getV 15 == 0) = true := by decide

/-- V-A25, V-A26. -/
theorem test_subn : runs 0x8017 (regs [(0, 3), (1, 5)] start) (fun t => t.getV 0 == 2 && t.getV 15 == 1) = true ∧
    runs 0x8017 (regs [(0, 5), (1, 3), (15, 1)] start) (fun t => t.getV 0 == 0xFE && t.getV 15 == 0) = true := by
  decide

/-- V-A29, V-A30: the two shift sources. -/
theorem test_shr : runs 0x8016 (regs [(0, 0x81), (1, 2)] start) (fun t => t.getV 0 == 1 && t.getV 15 == 0) = true ∧
    runs 0x8016 (regs [(0, 0x81), (1, 2)] (under { qShiftVx := true }))
      (fun t => t.getV 0 == 0x40 && t.getV 15 == 1) = true := by decide

/-- V-A34, V-A35. -/
theorem test_shl : runs 0x801E (regs [(1, 0x7F), (15, 1)] start) (fun t => t.getV 0 == 0xFE && t.getV 15 == 0) = true ∧
    runs 0x801E (regs [(0, 0x80), (1, 1)] (under { qShiftVx := true }))
      (fun t => t.getV 0 == 0 && t.getV 15 == 1) = true := by decide

/-- V-A37. -/
theorem test_rnd : runs 0xC30F (inputs 0 0xA7 start) (fun t => t.getV 3 == 7 && t.PC == 0x202) = true := by decide

/-- V-M2. -/
theorem test_ldINnn : runs 0xAFFF start (fun t => t.I == 0xFFF) = true := by decide

/-- V-M4. -/
theorem test_addIVx : runs 0xF01E (regs [(0, 1), (15, 7)] (start.setI 0xFFFF))
    (fun t => t.I == 0 && t.getV 15 == 7) = true := by decide

/-- V-M6. -/
theorem test_ldBVx : runs 0xF033 (regs [(0, 0x9C)] (start.setI 0x300))
    (fun t => t.mem.readBytes 0x300 3 == [1, 5, 6]) = true := by decide

/-- V-M10. -/
theorem test_ldBVx_oob : runs 0xF033 (regs [(0, 0x7B)] (start.setI 0xFFE))
    (fun t => faultedBy (.writeOob 0x1000 0xFFE 3) 0x200 (some 0xF033) t && t.byteAt 0xFFE == 0) = true := by decide

/-- V-M12. -/
theorem test_ldMemIVx : runs 0xF155 (regs [(0, 0x11), (1, 0x22)] ((under { qMemIncrI := true }).setI 0x300))
    (fun t => t.mem.readBytes 0x300 3 == [0x11, 0x22, 0] && t.I == 0x302) = true := by decide

/-- V-M16. -/
theorem test_ldMemIVx_oob : runs 0xF155 (start.setI 0xFFFF)
    (faultedBy (.writeOob 0xFFFF 0xFFFF 2) 0x200 (some 0xF155)) = true := by decide

/-- V-M17. -/
theorem test_ldVxMemI : runs 0xF265 (regs [(3, 9)] (bytes 0x300 [1, 5, 6, 7] (start.setI 0x300)))
    (fun t => t.getV 0 == 1 && t.getV 1 == 5 && t.getV 2 == 6 && t.getV 3 == 9 && t.I == 0x300) = true := by decide

/-- V-M22: a faulting instruction does not apply the index update. -/
theorem test_ldVxMemI_oob : runs 0xF165 (regs [(1, 1)] ((under { qMemIncrI := true }).setI 0xFFF))
    (fun t => faultedBy (.readOob 0x1000 0xFFF 2) 0x200 (some 0xF165) t && t.getV 1 == 1 && t.I == 0xFFF) = true := by
  decide

/-- V-D7, V-D8: the two edge policies. -/
theorem test_drw_edges : runs 0xD011 (bytes 0x300 [0xFF] (regs [(0, 62)] (start.setI 0x300)))
      (fun t => pixelOn t.FB (62, 0) && pixelOn t.FB (63, 0) && pixelOn t.FB (0, 0) && pixelOn t.FB (5, 0) &&
        !pixelOn t.FB (6, 0)) = true ∧
    runs 0xD011 (bytes 0x300 [0xFF] (regs [(0, 62)] ((under { drawEdge := .clip }).setI 0x300)))
      (fun t => pixelOn t.FB (62, 0) && pixelOn t.FB (63, 0) && !pixelOn t.FB (0, 0)) = true := by decide

/-- V-D5: a collision in the first of two rows. -/
theorem test_drw_collision : runs 0xD012 (bytes 0x300 [0x80, 0x80] (lit [(0, 0)] (start.setI 0x300)))
    (fun t => t.getV 15 == 1 && !pixelOn t.FB (0, 0) && pixelOn t.FB (0, 1)) = true := by decide

/-- V-K1, V-K2. -/
theorem test_skp : runs 0xE29E (inputs 0x0400 0 (regs [(2, 10)] start)) (fun t => t.PC == 0x204) = true ∧
    runs 0xE29E (inputs 0xFBFF 0 (regs [(2, 10)] start)) (fun t => t.PC == 0x202) = true := by decide

/-- V-K3, V-K7. -/
theorem test_sknp : runs 0xE2A1 (regs [(2, 10)] start) (fun t => t.PC == 0x204) = true ∧
    runs 0xE2A1 (regs [(2, 0xFF)] start) (faultedBy (.keyIndexRange 0xFF) 0x200 (some 0xE2A1)) = true := by decide

/-- V-K9. -/
theorem test_ldVxDt : runs 0xF507 (start.setDT 0x3C) (fun t => t.getV 5 == 0x3C && t.DT == 0x3C) = true := by decide

/-- V-K11. -/
theorem test_ldDtVx : runs 0xF515 (regs [(5, 0x3C)] start) (fun t => t.DT == 0x3C && t.ST == 0) = true := by decide

/-- V-K12. -/
theorem test_ldStVx : runs 0xF118 (regs [(1, 2)] start) (fun t => t.ST == 2 && t.DT == 0) = true := by decide

/-- V-U01E0. -/
theorem test_unknown : runs 0x01E0 start
    (fun t => t.PC == 0x202 && t.diag == [.unknownOpcode 0x200 0x01E0] && decide (t.status = .running)) = true := by
  decide

/-- V-T1, V-T2. -/
theorem test_tick : Answers (step ((ticking.setDT 3).setST 1)) (fun t => t.DT == 2 && t.ST == 0) = true ∧
    Answers (step ticking) (fun t => t.DT == 0 && t.ST == 0 && t.PC == 0x200) = true := by decide

/-- V-F2, V-F3. -/
theorem test_fetch_oob :
    Answers (step (start.setPC 0xFFF)) (faultedBy (.fetchOob 0x1000) 0xFFF none) = true ∧
    Answers (step (start.setPC 0x1000)) (faultedBy (.fetchOob 0x1000) 0x1000 none) = true := by decide

/-! ### Construct (V-R1, V-R2, V-R4 at a small MEM_SIZE) -/

theorem test_construct_empty :
    (construct {} []).toOption = some State.reset := by decide

theorem test_construct_image :
    (construct {} [0x00, 0xE0, 0x12, 0x00]).toOption.map (fun s => s.mem) = some [(0x201, 0xE0), (0x202, 0x12)] := by
  decide

theorem test_construct_too_large :
    (construct { memSize := 0x202 } [0, 0xE0, 0]).toOption = none := by decide

/-- The first Step after reset, whatever its inputs (V-R1). -/
theorem test_first_step : Answers (step { State.reset with ops := [.stepAny] })
    (fun t => t.PC == 0x202 && t.diag == [.unknownOpcode 0x200 0x0000] && t.draws == 1) = true := by decide

/-- R241: with no operation issued nothing changes. -/
theorem test_idle : step State.reset = .next State.reset := by rfl

/-- A word placed on the reset state is what the very next step runs. -/
theorem test_withFetchWord : Answers (step (State.reset.withFetchWord 16 0xA300))
    (fun t => t.I == 0x300 && t.PC == 0x202 && t.ops == []) = true := by decide

/-! ### Witnesses: for every statement that has hypotheses, operands and a state that meet all of them together -/

theorem witness_DecodeInvertsEncode :
    (Instr.jp 0xFFF).wf = true ∧ (Instr.drw 15 15 15).wf = true ∧ (Instr.ldVxMemI 15).wf = true := by decide

theorem witness_EncodeInvertsDecode : decode 0xDFFF = .ok (.drw 15 15 15) := by decide

theorem witness_DecoderAgreesWithOpcodeTable :
    (⟨"DRW", 0xF000, 0xD000⟩ : OpcodeRow) ∈ opcodeTable ∧ (⟨"DRW", 0xF000, 0xD000⟩ : OpcodeRow).covers 0xDFFF ∧
    decode 0xDFFF = .ok (.drw 15 15 15) := by
  refine ⟨by decide, ?_, by decide⟩
  unfold OpcodeRow.covers
  decide

/-- The last two bytes of memory hold 6A12; a Step with its inputs, and one with free inputs. -/
theorem witness_StepRunsTheDecodedInstruction :
    (∃ s : State, s.status = .running ∧ s.PC + 1 < s.cfg.memSize ∧ decode (s.wordAt s.PC) = .ok (.ldVxNn 10 0x12) ∧
      s.ops = .step 0 0 :: []) ∧
    ∃ s : State, s.status = .running ∧ s.PC + 1 < s.cfg.memSize ∧ decode (s.wordAt s.PC) = .ok (.ldVxNn 10 0x12) ∧
      s.ops = .stepAny :: [] :=
  ⟨⟨bytes 0xFFE [0x6A, 0x12] (start.setPC 0xFFE), by decide⟩,
    ⟨{ bytes 0xFFE [0x6A, 0x12] (start.setPC 0xFFE) with ops := [.stepAny] }, by decide⟩⟩

theorem witness_UnknownWordIsReportedAndSkipped :
    start.status = .running ∧ (nextOp start).1 = .step 0 0 ∧ start.PC + 1 < start.cfg.memSize ∧
    decode (start.wordAt start.PC) = .error .family0 := by decide

/-- PC at the last address, and just past it. -/
theorem witness_FetchOutOfBoundsFaults :
    (∃ s : State, s.status = .running ∧ (nextOp s).1 = .step 0 0 ∧ s.cfg.memSize ≤ s.PC + 1 ∧
      ¬s.cfg.memSize ≤ s.PC) ∧
    ∃ s : State, s.status = .running ∧ (nextOp s).1 = .step 0 0 ∧ s.cfg.memSize ≤ s.PC :=
  ⟨⟨start.setPC 0xFFF, by decide⟩, ⟨start.setPC 0x1000, by decide⟩⟩

/-- V-X1. -/
def underflowed : State := { State.reset with status := .faulted ⟨.stackUnderflow, 0x200, some 0x00EE⟩ }

theorem witness_FaultedStateHasNoTransition :
    underflowed.status = .faulted ⟨.stackUnderflow, 0x200, some 0x00EE⟩ := by decide

theorem witness_RunningStateAlwaysSteps : State.reset.status = .running := by decide

/-- A fault of the fetch, and one of the execute phase. -/
theorem witness_FaultIsPrecise :
    (∃ t r, step (start.setPC 0xFFF) = .next t ∧ t.status = .faulted r ∧ r.cause = .fetchOob 0x1000) ∧
    ∃ t r, step (start.placeWord 0x00EE) = .next t ∧ t.status = .faulted r ∧ ∀ a, r.cause ≠ .fetchOob a := by
  obtain ⟨t, h1, h2⟩ := answers_next (r := step (start.setPC 0xFFF))
    (p := fun t => decide (t.status = .faulted ⟨.fetchOob 0x1000, 0xFFF, none⟩)) (by decide)
  obtain ⟨u, h3, h4⟩ := answers_next (r := step (start.placeWord 0x00EE))
    (p := fun t => decide (t.status = .faulted ⟨.stackUnderflow, 0x200, some 0x00EE⟩)) (by decide)
  exact ⟨⟨t, _, h1, of_decide_eq_true h2, rfl⟩, ⟨u, _, h3, of_decide_eq_true h4, fun a h => by cases h⟩⟩

/-- A state at the edges of the invariant: the last address listed, a full stack with the largest return address, the
largest PC a jump reaches. -/
def edge : State :=
  { start with
    cfg := { stackCapacity := some 1 }
    mem := [(0xFFF, 1)]
    S := [0x1000]
    PC := 0x10FE
    diag := [.unknownOpcode 0x200 0, .stackDeep 17] }

theorem witness_StepKeepsInvariant : edge.Inv ∧ ∃ t, step edge = .next t := by
  refine ⟨⟨by decide, by decide, by decide, by decide, by decide, ?_, by decide, ?_, ?_⟩, ?_⟩
  · intro k h
    have : (1 : Nat) = k := Option.some.inj h
    subst this
    decide
  · intro r h
    exact absurd h (by simp [edge, start, State.reset])
  · intro e he
    simp only [edge, List.mem_cons, List.not_mem_nil, or_false] at he
    rcases he with rfl | rfl
    · exact ⟨.family0, by decide⟩
    · show 16 < 17
      decide
  · obtain ⟨t, h, _⟩ := answers_next (r := step edge) (p := fun _ => true) (by decide)
    exact ⟨t, h⟩

/-- The longest image that fits, and one byte more. -/
theorem witness_ConstructPlacesTheImage :
    ({ memSize := 0x202 } : Config).wf = true ∧
    ([0, 0xE0] : List Byte).length ≤ ({ memSize := 0x202 } : Config).memSize - 0x200 ∧
    ({ memSize := 0x202 } : Config).memSize - 0x200 < ([0, 0xE0, 0] : List Byte).length := by decide

theorem witness_ConstructMeetsInvariant :
    ∃ s, ({ memSize := 0x202 } : Config).wf = true ∧ construct { memSize := 0x202 } [0, 0xE0] = .ok s :=
  ⟨_, by decide, rfl⟩

theorem witness_DiagnosticsAreWriteOnly :
    ∃ t, step start = .next t ∧ t.diag ≠ start.diag := by
  obtain ⟨t, h, hp⟩ := answers_next (r := step start) (p := fun t => decide (t.diag ≠ start.diag)) (by decide)
  exact ⟨t, h, of_decide_eq_true hp⟩

theorem witness_SoundTimerIsNeverRead :
    ∃ t, step ((ticking.setDT 3).setST 1) = .next t ∧ t.ST ≠ 1 := by
  obtain ⟨t, h, hp⟩ := answers_next (r := step ((ticking.setDT 3).setST 1)) (p := fun t => decide (t.ST ≠ 1))
    (by decide)
  exact ⟨t, h, of_decide_eq_true hp⟩

theorem witness_TickCountsBothTimersDown : ticking.status = .running ∧ ticking.ops = .tick :: [] := by decide

/-- A Step that writes DT by FX15, a Tick that lowers it, and a Step that leaves it alone. -/
theorem witness_DelayTimerFallsOnlyByTicks :
    Answers (step (regs [(5, 9)] start |>.placeWord 0xF515)) (fun t => t.DT == 9) = true ∧
    Answers (step (ticking.setDT 3)) (fun t => t.DT == 2) = true ∧
    Answers (step ((start.setDT 3).placeWord 0x1200)) (fun t => t.DT == 3) = true := by decide

theorem witness_OnlyListedRegistersAreWritten :
    (∃ t, exec (.addVxVy 0 1) start = .next t) ∧ mayWriteV start.cfg (.addVxVy 0 1) 14 = false ∧
    (∃ t, exec (.or 0 1) start = .next t) ∧ mayWriteV start.cfg (.or 0 1) 15 = false :=
  ⟨⟨_, rfl⟩, by decide, ⟨_, rfl⟩, by decide⟩

/-- For each clause, an instruction that changes the component. -/
theorem witness_OnlyListedInstructionsWrite :
    Answers (exec (.ldDtVx 0) (regs [(0, 1)] start)) (fun t => decide (t.DT ≠ start.DT)) = true ∧
    Answers (exec (.ldStVx 0) (regs [(0, 1)] start)) (fun t => decide (t.ST ≠ start.ST)) = true ∧
    Answers (exec (.call 0x300) start) (fun t => decide (t.S ≠ start.S)) = true ∧
    Answers (exec (.call 0x300) (stack (List.replicate 16 0x202) start))
      (fun t => decide (t.diag ≠ start.diag)) = true ∧
    Answers (exec .cls (lit [(63, 31)] start)) (fun t => decide (pixelOn t.FB (63, 31) = false)) = true ∧
    Answers (exec (.ldBVx 0) (regs [(0, 1)] start)) (fun t => decide (t.byteAt 2 ≠ start.byteAt 2)) = true ∧
    Answers (exec (.ldVxMemI 0) (under { qMemIncrI := true })) (fun t => decide (t.I ≠ start.I)) = true ∧
    Answers (exec (.jp 0x300) start)
      (fun t => decide (t.PC ≠ start.PC) && decide (t.status = .running)) = true := by decide

theorem witness_ConfigurationAndInputsAreFixed :
    (∃ t, step start = .next t) ∧ ∃ t, exec (.ldMemIVx 0) (under { qMemIncrI := true }) = .next t := by
  obtain ⟨t, h, _⟩ := answers_next (r := step start) (p := fun _ => true) (by decide)
  obtain ⟨u, g, _⟩ := answers_next (r := exec (.ldMemIVx 0) (under { qMemIncrI := true })) (p := fun _ => true)
    (by decide)
  exact ⟨⟨t, h⟩, ⟨u, g⟩⟩

/-- The last two bytes of memory. -/
theorem witness_FetchSeesStoredBytes :
    (start.setI 0xFFE).I.toNat + (1 : Reg).val < (start.setI 0xFFE).cfg.memSize ∧
    (1 : Reg).val = (0 : Reg).val + 1 ∧ (1 : Reg) ≤ 1 := by decide

theorem witness_RetPopsTheReturnAddress :
    (stack [0x202, 0x206] start).S = [0x202] ++ [0x206] ∧ start.S = [] := by decide

/-- A word of every family a decoding clause is about, at both ends of its operands. -/
theorem witness_families :
    (slice 0x1000 15 12 = 1 ∧ slice 0x1FFF 15 12 = 1) ∧ (slice 0x3000 15 12 = 3 ∧ slice 0x3FFF 15 12 = 3) ∧
    (slice 0x4000 15 12 = 4 ∧ slice 0x4FFF 15 12 = 4) ∧ (slice 0x5000 15 12 = 5 ∧ slice 0x5FFF 15 12 = 5) ∧
    (slice 0x6000 15 12 = 6 ∧ slice 0x6FFF 15 12 = 6) ∧ (slice 0x7000 15 12 = 7 ∧ slice 0x7FFF 15 12 = 7) ∧
    (slice 0x9000 15 12 = 9 ∧ slice 0x9FFF 15 12 = 9) ∧ (slice 0xA000 15 12 = 10 ∧ slice 0xAFFF 15 12 = 10) ∧
    (slice 0xB000 15 12 = 11 ∧ slice 0xBFFF 15 12 = 11) ∧
    (slice 0x8FF0 15 12 = 8 ∧ slice 0x8FF0 3 0 = 0 ∧ slice 0x8FF4 15 12 = 8 ∧ slice 0x8FF4 3 0 = 4) ∧
    (slice 0x8FF5 15 12 = 8 ∧ slice 0x8FF5 3 0 = 5 ∧ slice 0x8FF7 15 12 = 8 ∧ slice 0x8FF7 3 0 = 7) ∧
    (slice 0xEF9E 15 12 = 14 ∧ slice 0xEF9E 7 0 = 0x9E ∧ slice 0xEFA1 15 12 = 14 ∧ slice 0xEFA1 7 0 = 0xA1) ∧
    (slice 0xFF1E 15 12 = 15 ∧ slice 0xFF1E 7 0 = 0x1E ∧ slice 0xFF33 15 12 = 15 ∧ slice 0xFF33 7 0 = 0x33) ∧
    (slice 0xFF07 15 12 = 15 ∧ slice 0xFF07 7 0 = 0x07 ∧ slice 0xFF15 15 12 = 15 ∧ slice 0xFF15 7 0 = 0x15) := by
  decide

/-- A target without a whole word: NNN + 1 = MEM_SIZE. -/
theorem witness_JpSetsPc : start.cfg.memSize ≤ 0xFFF + 1 := by decide

/-- Unbounded, and one below a finite capacity; depths 16 and 17 after the push. -/
theorem witness_CallPushesTheReturnAddress :
    start.cfg.stackCapacity ≠ some start.S.length ∧
    (under { stackCapacity := some 1 }).cfg.stackCapacity ≠ some (under { stackCapacity := some 1 }).S.length ∧
    Answers (exec (.call 0x300) (stack (List.replicate 16 0x202) start)) (fun t => decide (16 < t.S.length)) = true ∧
    Answers (exec (.call 0x300) (stack (List.replicate 15 0x202) start))
      (fun t => decide (t.S.length ≤ 16)) = true := by decide

theorem witness_RetAfterCallReturns :
    (stack [0x300] (under { stackCapacity := some 2 })).cfg.stackCapacity ≠
      some (stack [0x300] (under { stackCapacity := some 2 })).S.length := by decide

/-- Both outcomes of a condition, for SE and SNE. -/
theorem witness_SkipsOnImmediate :
    ((regs [(3, 0x10)] start).getV 3).toNat = (0x10 : Byte).toNat ∧
    ((regs [(3, 0x11)] start).getV 3).toNat ≠ (0x10 : Byte).toNat := by decide

theorem witness_SkipsOnRegisters :
    (start.getV 1).toNat = (start.getV 2).toNat ∧
    ((regs [(1, 7)] start).getV 1).toNat ≠ ((regs [(1, 7)] start).getV 2).toNat ∧
    slice 0x5120 3 0 = 0 ∧ slice 0x5121 3 0 ≠ 0 := by decide

/-- A skip at the last word of memory, taken and not taken; a key skip on key 15, taken. -/
theorem witness_SkipAdvancesByFourOrTwo :
    (∃ s : State, s.status = .running ∧ s.ops = .step 0 0 :: [] ∧ s.PC + 1 < s.cfg.memSize ∧
      decode (s.wordAt s.PC) = .ok (.seVxNn 0 0) ∧ skipCondition 0 s (.seVxNn 0 0) = some true) ∧
    (∃ s : State, s.status = .running ∧ s.ops = .step 0 0 :: [] ∧ s.PC + 1 < s.cfg.memSize ∧
      decode (s.wordAt s.PC) = .ok (.seVxNn 0 0) ∧ skipCondition 0 s (.seVxNn 0 0) = some false) ∧
    ∃ s : State, s.status = .running ∧ s.ops = .step 0x8000 0 :: [] ∧ s.PC + 1 < s.cfg.memSize ∧
      decode (s.wordAt s.PC) = .ok (.skp 2) ∧ skipCondition 0x8000 s (.skp 2) = some true :=
  ⟨⟨(start.setPC 0xFFE).placeWord 0x3000, by decide⟩,
    ⟨regs [(0, 1)] ((start.setPC 0xFFE).placeWord 0x3000), by decide⟩,
    ⟨regs [(2, 15)] (inputs 0x8000 0 start |>.placeWord 0xE29E), by decide⟩⟩

/-- Both values of the quirk, with VF as the destination and not. -/
theorem witness_LogicIsBitwise :
    ¬(start.cfg.qLogicVfReset = true ∧ (15 : Reg) = 15) ∧
    (under { qLogicVfReset := true }).cfg.qLogicVfReset = true ∧
    ¬((under { qLogicVfReset := true }).cfg.qLogicVfReset = true ∧ (14 : Reg) = 15) := by decide

/-- Both shift sources. -/
theorem witness_ShiftsSetTheBitShiftedOut :
    129 = ((regs [(0, 0x81), (1, 2)] (under { qShiftVx := true })).getV
      (if (under { qShiftVx := true }).cfg.qShiftVx = true then 0 else 1)).toNat ∧
    2 = ((regs [(0, 0x81), (1, 2)] start).getV (if start.cfg.qShiftVx = true then 0 else 1)).toNat := by decide

theorem witness_LoadIndexSetsI : (0xFFF : Nat) < 0x1000 := by decide

/-- I + 2 at the last address, and one beyond. -/
theorem witness_BcdStoresThreeDigits :
    (start.setI 0xFFD).I.toNat + 2 < (start.setI 0xFFD).cfg.memSize ∧
    (start.setI 0xFFE).cfg.memSize ≤ (start.setI 0xFFE).I.toNat + 2 := by decide

/-- I + X at the last address, without and with the quirk. -/
theorem witness_StoreSavesRegisters :
    (start.setI 0xFF0).I.toNat + (15 : Reg).val < (start.setI 0xFF0).cfg.memSize ∧
    ((under { qMemIncrI := true }).setI 0xFFF).I.toNat + (0 : Reg).val <
      ((under { qMemIncrI := true }).setI 0xFFF).cfg.memSize := by decide

theorem witness_LoadRestoresRegisters :
    (start.setI 0xFF0).I.toNat + (15 : Reg).val < (start.setI 0xFF0).cfg.memSize ∧
    ((under { memSize := 0x10000, qMemIncrI := true }).setI 0xFFFF).I.toNat + (0 : Reg).val <
      ((under { memSize := 0x10000, qMemIncrI := true }).setI 0xFFFF).cfg.memSize := by decide

/-- Each clause at the first range that reaches MEM_SIZE. -/
theorem witness_OutOfRangeAccessFaults :
    (0 < 2 ∧ (start.setI 0xFFF).cfg.memSize ≤ (start.setI 0xFFF).I.toNat + 2 - 1) ∧
    (start.setI 0xFFE).cfg.memSize ≤ (start.setI 0xFFE).I.toNat + 2 ∧
    (start.setI 0xFFF).cfg.memSize ≤ (start.setI 0xFFF).I.toNat + (1 : Reg).val := by decide

/-- One row at the last address of memory, drawn at column 63: the state of the draw witnesses. -/
def drawing (edgePolicy : DrawEdge) : State :=
  bytes 0xFFF [0xC0] (regs [(0, 63)] ((under { drawEdge := edgePolicy }).setI 0xFFF))

/-- The last byte of memory is in range; under wrap the second pixel lands in column 0, under clip the first still
lands in column 63; N = 0 covers nothing wherever I points; a covered cell is on, and none is. -/
theorem witness_DrawXorsCoveredPixels :
    ((1 : Nat) < 16 ∧ (drawing .wrap).I.toNat + 1 ≤ (drawing .wrap).cfg.memSize) ∧
    SpriteCovers (drawing .wrap) 0 1 1 (0, 0) ∧ SpriteCovers (drawing .clip) 0 1 1 (63, 0) ∧
    ¬SpriteCovers (start.setI 0xFFFF) 0 1 0 (0, 0) ∧
    (SpriteCovers (lit [(63, 0)] (drawing .clip)) 0 1 1 (63, 0) ∧
      pixelOn (lit [(63, 0)] (drawing .clip)).FB (63, 0) = true) ∧
    ¬∃ p, SpriteCovers (start.setI 0xFFFF) 0 1 0 p ∧ pixelOn (start.setI 0xFFFF).FB p = true := by
  refine ⟨by decide, ⟨0, by decide, 1, by decide, by decide, ?_⟩, ⟨0, by decide, 0, by decide, by decide, ?_⟩, ?_,
    ⟨⟨0, by decide, 0, by decide, by decide, ?_⟩, by decide⟩, ?_⟩
  · show _ ∧ _
    decide
  · show _ ∧ _
    decide
  · rintro ⟨r, hr, _⟩
    omega
  · show _ ∧ _
    decide
  · rintro ⟨p, ⟨r, hr, _⟩, _⟩
    omega

theorem witness_SpriteCellsAreDistinct : (15 : Nat) < 16 := by decide

theorem witness_DoubleDrawRestoresTheScreen :
    (1 : Nat) < 16 ∧ (drawing .wrap).I.toNat + 1 ≤ (drawing .wrap).cfg.memSize ∧ (0 : Reg) ≠ 15 ∧ (1 : Reg) ≠ 15 ∧
    SpriteCovers (drawing .wrap) 0 1 1 (0, 0) ∧ pixelOn (drawing .wrap).FB (0, 0) = false := by
  refine ⟨by decide, by decide, by decide, by decide, ⟨0, by decide, 1, by decide, by decide, ?_⟩, by decide⟩
  show _ ∧ _
  decide

theorem witness_SecondDrawAlwaysCollides :
    ∃ t u, (1 : Nat) < 16 ∧ (0 : Reg) ≠ 15 ∧ (1 : Reg) ≠ 15 ∧
      (drawing .wrap).I.toNat + 1 ≤ (drawing .wrap).cfg.memSize ∧ SpriteCovers (drawing .wrap) 0 1 1 (0, 0) ∧
      exec (.drw 0 1 1) (drawing .wrap) = .next t ∧ exec (.drw 0 1 1) t = .next u := by
  obtain ⟨t, h, hp⟩ := answers_next (r := exec (.drw 0 1 1) (drawing .wrap))
    (p := fun t => Answers (exec (.drw 0 1 1) t) fun _ => true) (by decide)
  obtain ⟨u, g, _⟩ := answers_next hp
  refine ⟨t, u, by decide, by decide, by decide, by decide, ⟨0, by decide, 1, by decide, by decide, ?_⟩, h, g⟩
  show _ ∧ _
  decide

/-- Key 15 down and up, and key value 16. -/
theorem witness_KeySkipsConsultKeyVx :
    ((regs [(2, 15)] start).getV 2).toNat ≤ 15 ∧ 15 < ((regs [(2, 16)] start).getV 2).toNat ∧
    (0x8000 : BitVec 16).getLsbD 15 = true ∧ (0x7FFF : BitVec 16).getLsbD 15 = false := by decide

theorem witness_StackAndKeyFaultRecords :
    start.S = [] ∧
    (stack [0x300, 0x302] (under { stackCapacity := some 2 })).cfg.stackCapacity =
      some (stack [0x300, 0x302] (under { stackCapacity := some 2 })).S.length ∧
    15 < ((regs [(2, 16)] start).getV 2).toNat := by decide

/-- No operation issued, and each of the three kinds. -/
theorem witness_StateStaysWhileNoOperationIsIssued :
    (State.reset.status = .running ∧ State.reset.ops = []) ∧
    (start.status = .running ∧ start.ops = .step 0 0 :: []) ∧
    (ticking.status = .running ∧ ticking.ops = .tick :: []) ∧
    ({ start with ops := [.stepAny] } : State).ops = .stepAny :: [] := by decide

end Sys2Proof.Tests
end

section
/-! SUPPORT. Control transfer (40_flow.md): what RET, JP and the six skips answer, a whole Step of a skip, and the
statements of the family they settle. -/

namespace Sys2Proof.Machine

open Sys2Proof.Claims

/-! ### the decoder's families -/

theorem decode_family1 {w : Word} (h : fieldF w = 0x1) : decode w = .ok (.jp (fieldNNN w)) := by
  simp [decode, h]

theorem decode_family3 {w : Word} (h : fieldF w = 0x3) : decode w = .ok (.seVxNn (fieldX w) (fieldNN w)) := by
  simp [decode, h]

theorem decode_family4 {w : Word} (h : fieldF w = 0x4) : decode w = .ok (.sneVxNn (fieldX w) (fieldNN w)) := by
  simp [decode, h]

/-! ### RET and JP -/

theorem setS_frame (s : State) (l : List Nat) : UnchangedBut [.S] s { s with S := l } := by
  intro c hc
  cases c <;> simp_all [Component.agree, State.getV, State.byteAt]

theorem exec_ret_concat {s : State} {l : List Nat} {a : Nat} (h : s.S = l ++ [a]) :
    exec .ret s = .next (({ s with S := l } : State).setPC a) := by
  simp [exec, execRet, State.pop_concat h]

theorem exec_ret_nil {s : State} (h : s.S = []) : exec .ret s = .next (raise .stackUnderflow s) := by
  simp [exec, execRet, State.pop_nil h]

theorem exec_jp (nnn : Nat) (s : State) : exec (.jp nnn) s = .next (s.setPC nnn) := rfl

/-- Where the two bytes at PC do not both exist, the fetch faults (R100). -/
theorem fetch_error_of_le {s : State} (h : s.cfg.memSize ≤ s.PC + 1) : ∃ addr, fetch s = .error addr := by
  rcases fetch_cases s with ⟨-, hf⟩ | ⟨-, hf⟩ | ⟨hlt, -⟩
  · exact ⟨_, hf⟩
  · exact ⟨_, hf⟩
  · omega

/-! ### the skips -/

/-- `skipIf` does what R106 says of a condition that its Boolean decides. -/
theorem skipIf_skipsWhen (s : State) (p : Prop) [Decidable p] : SkipsWhen p s (s.skipIf (decide p)) :=
  ⟨fun h => by simp [h], fun h => by simp [h], skipIf_frame s _⟩

/-- A key skip whose V[x] is a key skips on that key's state (R200, R201, R202). -/
theorem skipOnKey_of_le {s : State} {x : Reg} (h : (s.getV x).toNat ≤ 15) (wanted : Bool) :
    skipOnKey x wanted s = .next (s.skipIf (s.keyDown (s.getV x).toNat == wanted)) := by
  rcases skipOnKey_cases x wanted s with ⟨hout, -⟩ | ⟨-, hskip⟩
  · omega
  · exact hskip

/-- A skip whose key value, if it has one, is a key skips on its condition and does nothing else (R106). -/
theorem exec_of_skipCondition {s : State} {i : Instr} {b : Bool} (h : skipCondition s.cur.keys s i = some b) :
    exec i s = .next (s.skipIf b) := by
  cases i with
  | seVxNn x nn => cases h; simp [exec, execSeVxNn, beq_eq_decide, BitVec.toNat_inj]
  | sneVxNn x nn => cases h; simp [exec, execSneVxNn, bne, beq_eq_decide, BitVec.toNat_inj]
  | seVxVy x y => cases h; simp [exec, execSeVxVy, beq_eq_decide, BitVec.toNat_inj]
  | sneVxVy x y => cases h; simp [exec, execSneVxVy, bne, beq_eq_decide, BitVec.toNat_inj]
  | skp x =>
    obtain ⟨hkey, rfl⟩ := by simpa [skipCondition] using h
    simp [exec, execSkp, skipOnKey_of_le hkey, State.keyDown]
  | sknp x =>
    obtain ⟨hkey, hb⟩ := by simpa [skipCondition] using h
    simp [exec, execSknp, skipOnKey_of_le hkey, State.keyDown, hb]
  | _ => cases h

/-- A skip's condition reads the registers and the key snapshot alone. -/
theorem skipCondition_congr {s t : State} (h : t.V = s.V) (keys : BitVec 16) (i : Instr) :
    skipCondition keys t i = skipCondition keys s i := by
  cases i <;> simp [skipCondition, State.getV_congr h]

/-! ### a whole Step -/

theorem fetched_frame (keys : BitVec 16) (rnd : Byte) (s : State) :
    UnchangedBut [.PC, .cur] s (fetched keys rnd s) := by
  intro c hc
  cases c <;> simp_all [Component.agree, fetched, State.getV, State.byteAt]

theorem retire_frame (s : State) : UnchangedBut [.cur] s s.retire := by
  intro c hc
  cases c <;> simp_all [Component.agree]

/-- A Step issued with its inputs, of a word that is read whole and decodes, runs the instruction (R101). -/
theorem step_of_decode {s : State} {keys : BitVec 16} {rnd : Byte} {rest : List HostOp} {i : Instr}
    (hs : s.status = .running) (ho : s.ops = .step keys rnd :: rest) (hpc : s.PC + 1 < s.cfg.memSize)
    (hd : decode (s.wordAt s.PC) = .ok i) :
    step s = retired (exec i (fetched keys rnd { s with ops := rest })) := by
  rw [step_running hs, nextOp_step ho]
  rcases runStep_cases keys rnd { s with ops := rest } with ⟨h, -⟩ | ⟨-, j, hj, hr⟩ | ⟨-, c, hc, -⟩
  · exact absurd hpc (Nat.not_lt.2 h)
  · cases hd.symm.trans hj
    exact hr
  · cases hd.symm.trans hc

/-- A Step of a skip is the fetch, the skip on its condition, and the idle latch (R106). -/
theorem step_of_skipCondition {s : State} {keys : BitVec 16} {rnd : Byte} {rest : List HostOp} {i : Instr} {b : Bool}
    (hs : s.status = .running) (ho : s.ops = .step keys rnd :: rest) (hpc : s.PC + 1 < s.cfg.memSize)
    (hd : decode (s.wordAt s.PC) = .ok i) (hcond : skipCondition keys s i = some b) :
    step s = .next ((fetched keys rnd { s with ops := rest }).skipIf b).retire := by
  have hfetched : skipCondition keys (fetched keys rnd { s with ops := rest }) i = some b :=
    (skipCondition_congr rfl keys i).trans hcond
  rw [step_of_decode hs ho hpc hd, exec_of_skipCondition hfetched, retired]

/-! ### the statements -/

/-- Settles O25: the pop of `State.pop_concat`, and the fault entry where there is nothing to pop. -/
theorem retPopsTheReturnAddress : Obligations.RetPopsTheReturnAddress := by
  refine ⟨by decide, fun s l a h => ?_, fun s h => ?_⟩
  · refine ⟨_, exec_ret_concat h, rfl, rfl, ?_⟩
    exact ((setS_frame s l).mono (by simp)).trans ((setPC_frame _ a).mono (by simp))
  · exact ⟨_, exec_ret_nil h, _, rfl, rfl⟩

/-- Settles O26: `setPC` and its frame, and R100 for a target without a whole word. -/
theorem jpSetsPc : Obligations.JpSetsPc := by
  refine ⟨fun w => decode_family1, fun s nnn => ?_⟩
  exact ⟨_, exec_jp nnn s, rfl, setPC_frame s nnn, fun h => fetch_error_of_le (s := s.setPC nnn) h⟩

/-- Settles O30: both instructions skip on their condition. -/
theorem skipsOnImmediate : Obligations.SkipsOnImmediate := by
  refine ⟨fun w => decode_family3, fun w => decode_family4, fun s x nn => ⟨?_, ?_⟩⟩
  · exact ⟨_, exec_of_skipCondition rfl, skipIf_skipsWhen s _⟩
  · exact ⟨_, exec_of_skipCondition rfl, skipIf_skipsWhen s _⟩

/-- Settles O32: of the parts of the Step, the schedule's update, the fetch and the latch write only what the frame
names, the fetch advances PC by 2, and the skip by 2 more where the condition holds. -/
theorem skipAdvancesByFourOrTwo : Obligations.SkipAdvancesByFourOrTwo := by
  intro s keys rnd rest i b hs ho hpc hd hcond
  refine ⟨_, step_of_skipCondition hs ho hpc hd hcond, by cases b <;> rfl, ?_⟩
  have hissue : UnchangedBut [.host] s { s with ops := rest } := by simpa [nextOp_step ho] using nextOp_frame s
  have hfetch := fetched_frame keys rnd { s with ops := rest }
  have hskip := skipIf_frame (fetched keys rnd { s with ops := rest }) b
  have hretire := retire_frame ((fetched keys rnd { s with ops := rest }).skipIf b)
  exact (((hissue.mono (by simp)).trans (hfetch.mono (by simp))).trans (hskip.mono (by simp))).trans
    (hretire.mono (by simp))

end Sys2Proof.Machine
end

section
/-! SUPPORT. Register and ALU instructions (41_alu.md): the two ways they write the register file, the carry and
borrow flags as numbers, and the statements of the family they settle. -/

namespace Sys2Proof.Machine

open Sys2Proof.Claims

/-! ### the decoder's families -/

theorem decode_family6 {w : Word} (h : fieldF w = 0x6) : decode w = .ok (.ldVxNn (fieldX w) (fieldNN w)) := by
  simp [decode, h]

theorem decode_family7 {w : Word} (h : fieldF w = 0x7) : decode w = .ok (.addVxNn (fieldX w) (fieldNN w)) := by
  simp [decode, h]

/-- A word of family 8 is decoded by its low nibble (R74). -/
theorem decode_family8 {w : Word} {n : Nat} (h : fieldF w = 0x8) (hn : fieldN w = n) :
    decode w = decodeFamily8 (fieldX w) (fieldY w) n := by
  simp [decode, h, hn]

/-! ### what the instructions answer -/

theorem exec_ldVxNn (x : Reg) (nn : Byte) (s : State) : exec (.ldVxNn x nn) s = .next (s.setV x nn) := rfl

theorem exec_addVxNn (x : Reg) (nn : Byte) (s : State) :
    exec (.addVxNn x nn) s = .next (s.setV x (add8 (s.getV x) nn)) := rfl

theorem exec_ldVxVy (x y : Reg) (s : State) : exec (.ldVxVy x y) s = .next (s.setV x (s.getV y)) := rfl

theorem exec_addVxVy (x y : Reg) (s : State) :
    exec (.addVxVy x y) s =
      .next (s.setResultThenFlag x (add8 (s.getV x) (s.getV y)) (carryFlag (s.getV x) (s.getV y))) := rfl

theorem exec_sub (x y : Reg) (s : State) :
    exec (.sub x y) s =
      .next (s.setResultThenFlag x (sub8 (s.getV x) (s.getV y)) (noBorrowFlag (s.getV x) (s.getV y))) := rfl

theorem exec_subn (x y : Reg) (s : State) :
    exec (.subn x y) s =
      .next (s.setResultThenFlag x (sub8 (s.getV y) (s.getV x)) (noBorrowFlag (s.getV y) (s.getV x))) := rfl

/-! ### the flags as numbers -/

theorem toNat_carryFlag (a b : Byte) : (carryFlag a b).toNat = if 255 < a.toNat + b.toNat then 1 else 0 := by
  simp [carryFlag, toNat_flagByte]

theorem toNat_noBorrowFlag (a b : Byte) : (noBorrowFlag a b).toNat = if b.toNat ≤ a.toNat then 1 else 0 := by
  simp [noBorrowFlag, toNat_flagByte]

/-! ### writes to the register file -/

/-- A register write gives its register the byte and leaves the rest of the state. -/
theorem setV_writesReg {s : State} {x : Reg} {b : Byte} {value : Nat} (hb : b.toNat = value) :
    WritesReg x value s (s.setV x b) :=
  ⟨by simpa using hb, fun r hr => by simp [hr], setV_frame s x b⟩

/-- A result and a flag written in this order: the flag is what VF ends as, whatever x is (R132). -/
theorem setResultThenFlag_writesResultThenFlag {s : State} {x : Reg} {b f : Byte} {result flag : Nat}
    (hb : b.toNat = result) (hf : f.toNat = flag) :
    WritesResultThenFlag x result flag s (s.setResultThenFlag x b f) := by
  refine ⟨fun hx => ?_, ?_, fun r hr hrF => ?_, setResultThenFlag_frame s x b f⟩
  · rw [setResultThenFlag_getV, if_neg hx, if_pos rfl, hb]
  · rw [setResultThenFlag_getV, if_pos rfl, hf]
  · rw [setResultThenFlag_getV, if_neg hrF, if_neg hr]

/-! ### the statements -/

/-- Settles O33: a single register write of the immediate. -/
theorem loadImmediateIsExact : Obligations.LoadImmediateIsExact :=
  ⟨fun _ => decode_family6, fun s x nn => ⟨_, exec_ldVxNn x nn s, setV_writesReg rfl⟩⟩

/-- Settles O34: a single register write of `add8`, so no flag is written. -/
theorem addImmediateWrapsWithoutFlag : Obligations.AddImmediateWrapsWithoutFlag :=
  ⟨fun _ => decode_family7, fun s x nn => ⟨_, exec_addVxNn x nn s, setV_writesReg (toNat_add8 _ _)⟩⟩

/-- Settles O35: a single register write of V[y]. -/
theorem registerMoveCopies : Obligations.RegisterMoveCopies :=
  ⟨fun _ => decode_family8, fun s x y => ⟨_, exec_ldVxVy x y s, setV_writesReg rfl⟩⟩

/-- Settles O37: `add8` is the sum mod 256, and the carry is computed from the operands before either write. -/
theorem addRegistersSetsCarry : Obligations.AddRegistersSetsCarry :=
  ⟨fun _ => decode_family8, fun s x y =>
    ⟨_, exec_addVxVy x y s, setResultThenFlag_writesResultThenFlag (toNat_add8 _ _) (toNat_carryFlag _ _)⟩⟩

/-- Settles O38: SUBN is SUB with the operands exchanged, in the difference and in the flag alike. -/
theorem subtractSetsNoBorrow : Obligations.SubtractSetsNoBorrow := by
  refine ⟨fun _ => decode_family8, fun _ => decode_family8, fun s x y => ⟨?_, ?_⟩⟩
  · exact ⟨_, exec_sub x y s, setResultThenFlag_writesResultThenFlag (toNat_sub8 _ _) (toNat_noBorrowFlag _ _)⟩
  · exact ⟨_, exec_subn x y s, setResultThenFlag_writesResultThenFlag (toNat_sub8 _ _) (toNat_noBorrowFlag _ _)⟩

end Sys2Proof.Machine
end

section
/-! SUPPORT. Index register and memory instructions (42_index_memory.md): the two answers of a store from I on, the
digits of FX33, and the statements of the family they settle. -/

namespace Sys2Proof.Machine

open Sys2Proof.Claims

/-! ### the decoder's families -/

theorem decode_familyA {w : Word} (h : fieldF w = 0xA) : decode w = .ok (.ldINnn (fieldNNN w)) := by
  simp [decode, h]

/-- A word of family F is decoded by its low byte (R74). -/
theorem decode_familyF {w : Word} {n : Nat} (h : fieldF w = 0xF) (hn : slice w 7 0 = n) :
    decode w = decodeFamilyF (fieldX w) (BitVec.ofNat 8 n) := by
  simp [decode, h, fieldNN, hn]

/-! ### what the instructions answer -/

theorem exec_ldINnn (nnn : Nat) (s : State) : exec (.ldINnn nnn) s = .next (s.setI (zext16 nnn)) := rfl

theorem exec_addIVx (x : Reg) (s : State) :
    exec (.addIVx x) s = .next (s.setI (s.indexPlus (s.getV x).toNat)) := rfl

theorem exec_ldBVx (x : Reg) (s : State) : exec (.ldBVx x) s = storeAtI (bcdDigits (s.getV x)) s id := rfl

/-! ### numbers as bit vectors -/

/-- A number that fits a width keeps its value in it. -/
theorem toNat_ofNat_of_lt {w n : Nat} (h : n < 2 ^ w) : (BitVec.ofNat w n).toNat = n := by
  rw [BitVec.toNat_ofNat, Nat.mod_eq_of_lt h]

theorem toNat_zext16 {nnn : Nat} (h : nnn < 0x1000) : (zext16 nnn).toNat = nnn :=
  toNat_ofNat_of_lt (by omega)

theorem toNat_indexPlus (s : State) (n : Nat) : (s.indexPlus n).toNat = (s.I.toNat + n) % 65536 :=
  BitVec.toNat_ofNat _ _

/-! ### a store from I on -/

/-- A store whose whole range exists writes its bytes (R162). -/
theorem storeAtI_of_le {bytes : List Byte} {s : State} (h : s.I.toNat + bytes.length ≤ s.cfg.memSize)
    (after : State → State) :
    storeAtI bytes s after = .next (after (s.setMem (s.mem.writeBytes s.I.toNat bytes))) := by
  rcases storeAtI_cases bytes s after with ⟨-, hout, -⟩ | ⟨-, hstore⟩
  · omega
  · exact hstore

/-- A store whose range reaches an address that does not exist raises WRITE_OOB (R162, R229). -/
theorem storeAtI_of_lt {bytes : List Byte} {s : State} (hpos : 0 < bytes.length)
    (h : s.cfg.memSize < s.I.toNat + bytes.length) (after : State → State) :
    storeAtI bytes s after =
      .next (raise (.writeOob (max s.I.toNat s.cfg.memSize) s.I.toNat bytes.length) s) := by
  rcases storeAtI_cases bytes s after with ⟨-, -, hraise⟩ | ⟨hfits, -⟩
  · exact hraise
  · omega

/-- After a consecutive write, address base + k reads as byte k of the bytes written. -/
theorem Memory.read_writeBytes_of_getElem? {bs : List Byte} {k : Nat} {b : Byte} (h : bs[k]? = some b) (m : Memory)
    (base : Nat) : (m.writeBytes base bs).read (base + k) = b := by
  simp [Memory.read_writeBytes, h]

/-- The digits FX33 stores are the decimal digits of the byte (R163): each fits a byte. -/
theorem bcdDigits_eq (v : Byte) : ∃ hundreds tens ones : Byte, bcdDigits v = [hundreds, tens, ones] ∧
    hundreds.toNat = v.toNat / 100 ∧ tens.toNat = v.toNat / 10 % 10 ∧ ones.toNat = v.toNat % 10 := by
  have hv := v.isLt
  exact ⟨_, _, _, rfl, toNat_ofNat_of_lt (by omega), toNat_ofNat_of_lt (by omega),
    toNat_ofNat_of_lt (by omega)⟩

/-! ### the statements -/

/-- Settles O43: the three digits are written as one consecutive range, which `storeAtI` checks before it writes. -/
theorem bcdStoresThreeDigits : Obligations.BcdStoresThreeDigits := by
  refine ⟨fun w => decode_familyF, fun s x hin => ?_, fun s x hout => ?_⟩
  · obtain ⟨hundreds, tens, ones, hdigits, hh, ht, ho⟩ := bcdDigits_eq (s.getV x)
    have hexec : exec (.ldBVx x) s = .next (s.setMem (s.mem.writeBytes s.I.toNat [hundreds, tens, ones])) := by
      rw [exec_ldBVx, hdigits]
      exact storeAtI_of_le (bytes := [hundreds, tens, ones]) hin id
    have hread {k : Nat} {b : Byte} (hk : [hundreds, tens, ones][k]? = some b) :=
      congrArg BitVec.toNat (Memory.read_writeBytes_of_getElem? hk s.mem s.I.toNat)
    exact ⟨_, hexec, (hread (k := 0) rfl).trans hh, (hread (k := 1) rfl).trans ht, (hread (k := 2) rfl).trans ho,
      fun a ha => Memory.read_writeBytes_outside _ _ _ _ ha, setMem_frame s _⟩
  · have hexec := storeAtI_of_lt (bytes := bcdDigits (s.getV x)) (by simp) (Nat.lt_succ_of_le hout) id
    exact ⟨_, _, _, _, hexec, _, rfl, rfl⟩

/-- Settles O41: a 12-bit NNN fits I whatever MEM_SIZE is, and `setI` writes I alone. -/
theorem loadIndexSetsI : Obligations.LoadIndexSetsI :=
  ⟨fun _ => decode_familyA, fun s nnn h => ⟨_, exec_ldINnn nnn s, toNat_zext16 h, setI_frame s _⟩⟩

/-- Settles O42: the sum is truncated to I's 16 bits, and `setI` writes I alone, so no flag. -/
theorem addIndexWrapsWithoutFlag : Obligations.AddIndexWrapsWithoutFlag :=
  ⟨fun _ => decode_familyF, fun s x => ⟨_, exec_addIVx x s, toNat_indexPlus s _, setI_frame s _⟩⟩

end Sys2Proof.Machine
end

section
/-! SUPPORT. Display instructions (43_display.md): what 00E0 answers, and the statement of the family it settles. -/

namespace Sys2Proof.Machine

/-! ### what the instructions answer -/

theorem exec_cls (s : State) : exec .cls s = .next (s.setFB clearScreen) := rfl

/-! ### the statements -/

/-- Settles O47: the cleared framebuffer has every pixel off, and `setFB` writes FB alone. -/
theorem clsClearsEveryPixel : Obligations.ClsClearsEveryPixel :=
  ⟨by decide, fun s => ⟨_, exec_cls s, pixelOn_clearScreen, setFB_frame s _⟩⟩

end Sys2Proof.Machine
end

section
/-! SUPPORT. Timers and keys (44_timers_keys.md): the decoder's family E, the two answers of the key skips and the
delay timer's transfers, and the statements of the family they settle. -/

namespace Sys2Proof.Machine

open Sys2Proof.Claims

/-! ### the decoder's families -/

/-- A word of family E is decoded by its low byte (R74). -/
theorem decode_familyE {w : Word} {n : Nat} (h : fieldF w = 0xE) (hn : slice w 7 0 = n) :
    decode w = decodeFamilyE (fieldX w) (BitVec.ofNat 8 n) := by
  simp [decode, h, fieldNN, hn]

/-! ### what the instructions answer -/

theorem exec_skp (x : Reg) (s : State) : exec (.skp x) s = skipOnKey x true s := rfl

theorem exec_sknp (x : Reg) (s : State) : exec (.sknp x) s = skipOnKey x false s := rfl

theorem exec_ldVxDt (x : Reg) (s : State) : exec (.ldVxDt x) s = .next (s.setV x s.DT) := rfl

theorem exec_ldDtVx (x : Reg) (s : State) : exec (.ldDtVx x) s = .next (s.setDT (s.getV x)) := rfl

/-! ### the key skips -/

/-- A key skip whose V[x] is a key does what R106 says of that key being in the wanted state (R200, R201). -/
theorem skipOnKey_skipsWhen {s : State} {x : Reg} (h : (s.getV x).toNat ≤ 15) (wanted : Bool) :
    ∃ t, skipOnKey x wanted s = .next t ∧ SkipsWhen (s.cur.keys.getLsbD (s.getV x).toNat = wanted) s t := by
  refine ⟨_, skipOnKey_of_le h wanted, ?_⟩
  rw [beq_eq_decide]
  exact skipIf_skipsWhen s _

/-- A key skip whose V[x] is no key raises KEY_INDEX_RANGE with that value (R200, R201). -/
theorem skipOnKey_of_lt {s : State} {x : Reg} (h : 15 < (s.getV x).toNat) (wanted : Bool) :
    skipOnKey x wanted s = .next (raise (.keyIndexRange (s.getV x).toNat) s) := by
  rcases skipOnKey_cases x wanted s with ⟨-, hraise⟩ | ⟨hkey, -⟩
  · exact hraise
  · omega

/-- The fault entry leaves a state Faulted with the cause it was given (R225). -/
theorem raise_faultCauseIs (c : FaultCause) (s : State) : FaultCauseIs c (raise c s) := ⟨_, rfl, rfl⟩

/-! ### the statements -/

/-- Settles O52: both instructions are `skipOnKey`, which tests V[x] against 15 before it reads a key. -/
theorem keySkipsConsultKeyVx : Obligations.KeySkipsConsultKeyVx := by
  refine ⟨fun w => decode_familyE, fun w => decode_familyE, fun s x hkey => ⟨?_, ?_⟩, fun s x hout => ⟨?_, ?_⟩⟩
  · rw [exec_skp]
    exact skipOnKey_skipsWhen hkey true
  · rw [exec_sknp]
    exact skipOnKey_skipsWhen hkey false
  · exact ⟨_, (exec_skp x s).trans (skipOnKey_of_lt hout true), raise_faultCauseIs _ s⟩
  · exact ⟨_, (exec_sknp x s).trans (skipOnKey_of_lt hout false), raise_faultCauseIs _ s⟩

/-- Settles O53: FX07 is a single register write of DT, and FX15 is `setDT`, which writes DT alone. -/
theorem delayTimerTransfers : Obligations.DelayTimerTransfers := by
  refine ⟨fun w => decode_familyF, fun w => decode_familyF, fun s x => ⟨?_, ?_⟩⟩
  · exact ⟨_, exec_ldVxDt x s, setV_writesReg rfl⟩
  · exact ⟨_, exec_ldDtVx x s, rfl, setDT_frame s _⟩

end Sys2Proof.Machine
end

section
/-! SUPPORT. The decoder and the encoder (30_encoding.md): every family of the decoder, the fields of a packed word and
the word packed from its fields, the rows of the opcode table, and the statements of the encoding they settle. -/

namespace Sys2Proof

open Sys2Proof.Machine Sys2Proof.Claims Sys2Proof.Laws

/-! ### the decoder's families -/

theorem decode_family0 {w : Word} (h : fieldF w = 0x0) :
    decode w = if w = 0x00E0 then .ok .cls else if w = 0x00EE then .ok .ret else .error .family0 := by
  simp [decode, h]

theorem decode_family2 {w : Word} (h : fieldF w = 0x2) : decode w = .ok (.call (fieldNNN w)) := by
  simp [decode, h]

theorem decode_family5 {w : Word} (h : fieldF w = 0x5) :
    decode w = if fieldN w = 0 then .ok (.seVxVy (fieldX w) (fieldY w)) else .error .family5 := by
  simp [decode, h]

theorem decode_family9 {w : Word} (h : fieldF w = 0x9) :
    decode w = if fieldN w = 0 then .ok (.sneVxVy (fieldX w) (fieldY w)) else .error .family9 := by
  simp [decode, h]

theorem decode_familyB {w : Word} (h : fieldF w = 0xB) : decode w = .ok (.jpV0Nnn (fieldNNN w)) := by
  simp [decode, h]

theorem decode_familyC {w : Word} (h : fieldF w = 0xC) : decode w = .ok (.rnd (fieldX w) (fieldNN w)) := by
  simp [decode, h]

theorem decode_familyD {w : Word} (h : fieldF w = 0xD) :
    decode w = .ok (.drw (fieldX w) (fieldY w) (fieldN w)) := by
  simp [decode, h]

/-! ### a word packed from its own fields -/

/-- Format A12 loses no bit of a word (R72). -/
theorem packA12_fields (w : Word) : packA12 (fieldF w) (fieldNNN w) = w := by
  have := w.isLt
  apply BitVec.eq_of_toNat_eq
  rw [toNat_packA12 _ _ (fieldF_lt w), fieldF, fieldNNN, slice_15_12, slice_11_0]
  omega

/-- Format XNN loses no bit of a word (R72). -/
theorem packXNN_fields (w : Word) : packXNN (fieldF w) (fieldX w) (fieldNN w) = w := by
  have := w.isLt
  apply BitVec.eq_of_toNat_eq
  rw [toNat_packXNN _ _ _ (fieldF_lt w)]
  simp only [fieldF, fieldX, fieldNN, slice_15_12, slice_11_8, slice_7_0, BitVec.toNat_ofNat]
  omega

/-- Format XYN loses no bit of a word (R72). -/
theorem packXYN_fields (w : Word) : packXYN (fieldF w) (fieldX w) (fieldY w) (fieldN w) = w := by
  have := w.isLt
  apply BitVec.eq_of_toNat_eq
  rw [toNat_packXYN _ _ _ _ (fieldF_lt w)]
  simp only [fieldF, fieldX, fieldY, fieldN, slice_15_12, slice_11_8, slice_7_4, slice_3_0]
  omega

/-! ### the encoding of a decoded word -/

theorem encode_of_decodeFamily8 {x y : Reg} {n : Nat} {i : Instr} (h : decodeFamily8 x y n = .ok i) :
    encode i = packXYN 0x8 x y n := by
  unfold decodeFamily8 at h
  split at h <;> cases h <;> rfl

theorem encode_of_decodeFamilyE {x : Reg} {nn : Byte} {i : Instr} (h : decodeFamilyE x nn = .ok i) :
    encode i = packXNN 0xE x nn := by
  unfold decodeFamilyE at h
  split_ifs at h <;> cases h <;> simp only [encode, *]

theorem encode_of_decodeFamilyF {x : Reg} {nn : Byte} {i : Instr} (h : decodeFamilyF x nn = .ok i) :
    encode i = packXNN 0xF x nn := by
  unfold decodeFamilyF at h
  split_ifs at h <;> cases h <;> simp only [encode, *]

/-- The encoding of a decoded word is the word: each family packs the fields it was decoded from. -/
theorem encode_of_decode {w : Word} {i : Instr} (h : decode w = .ok i) : encode i = w := by
  have hA12 := packA12_fields w
  have hXNN := packXNN_fields w
  have hXYN := packXYN_fields w
  unfold decode at h
  split at h
  case h_1 =>
    split_ifs at h with hcls hret <;> cases h
    · exact hcls.symm
    · exact hret.symm
  case h_2 hF | h_3 hF | h_11 hF | h_12 hF =>
    cases h
    rw [hF] at hA12
    exact hA12
  case h_4 hF | h_5 hF | h_7 hF | h_8 hF | h_13 hF =>
    cases h
    rw [hF] at hXNN
    exact hXNN
  case h_6 hF | h_10 hF =>
    split_ifs at h with hN
    cases h
    rw [hF, hN] at hXYN
    exact hXYN
  case h_9 hF =>
    rw [hF] at hXYN
    exact (encode_of_decodeFamily8 h).trans hXYN
  case h_14 hF =>
    cases h
    rw [hF] at hXYN
    exact hXYN
  case h_15 hF =>
    rw [hF] at hXNN
    exact (encode_of_decodeFamilyE h).trans hXNN
  case h_16 =>
    have hF : fieldF w = 0xF := by
      have hlt := fieldF_lt w
      simp only [imp_false] at *
      omega
    rw [hF] at hXNN
    exact (encode_of_decodeFamilyF h).trans hXNN

/-! ### the fields of a packed word -/

theorem fieldF_packA12 {op : Nat} (h : op < 16) (nnn : Nat) : fieldF (packA12 op nnn) = op := by
  rw [fieldF, slice_15_12, toNat_packA12 op nnn h]
  omega

theorem fieldNNN_packA12 {op nnn : Nat} (h : op < 16) (hn : nnn < 0x1000) : fieldNNN (packA12 op nnn) = nnn := by
  rw [fieldNNN, slice_11_0, toNat_packA12 op nnn h]
  omega

theorem fieldF_packXNN {op : Nat} (h : op < 16) (x : Reg) (nn : Byte) : fieldF (packXNN op x nn) = op := by
  have := x.isLt
  have := nn.isLt
  rw [fieldF, slice_15_12, toNat_packXNN op x nn h]
  omega

theorem fieldX_packXNN {op : Nat} (h : op < 16) (x : Reg) (nn : Byte) : fieldX (packXNN op x nn) = x := by
  have := nn.isLt
  apply Fin.ext
  simp only [fieldX, slice_11_8, toNat_packXNN op x nn h]
  omega

theorem slice_7_0_packXNN {op : Nat} (h : op < 16) (x : Reg) (nn : Byte) :
    slice (packXNN op x nn) 7 0 = nn.toNat := by
  have := nn.isLt
  rw [slice_7_0, toNat_packXNN op x nn h]
  omega

theorem fieldNN_packXNN {op : Nat} (h : op < 16) (x : Reg) (nn : Byte) : fieldNN (packXNN op x nn) = nn := by
  simp [fieldNN, slice_7_0_packXNN h]

theorem fieldF_packXYN {op : Nat} (h : op < 16) (x y : Reg) (n : Nat) : fieldF (packXYN op x y n) = op := by
  have := x.isLt
  have := y.isLt
  rw [fieldF, slice_15_12, toNat_packXYN op x y n h]
  omega

theorem fieldX_packXYN {op : Nat} (h : op < 16) (x y : Reg) (n : Nat) : fieldX (packXYN op x y n) = x := by
  have := x.isLt
  have := y.isLt
  apply Fin.ext
  simp only [fieldX, slice_11_8, toNat_packXYN op x y n h]
  omega

theorem fieldY_packXYN {op : Nat} (h : op < 16) (x y : Reg) (n : Nat) : fieldY (packXYN op x y n) = y := by
  have := y.isLt
  apply Fin.ext
  simp only [fieldY, slice_7_4, toNat_packXYN op x y n h]
  omega

theorem fieldN_packXYN {op n : Nat} (h : op < 16) (hn : n < 16) (x y : Reg) : fieldN (packXYN op x y n) = n := by
  rw [fieldN, slice_3_0, toNat_packXYN op x y n h]
  omega

/-! ### decoding an encoded instruction -/

theorem decode_packXYN8 (x y : Reg) {n : Nat} (hn : n < 16) :
    decode (packXYN 0x8 x y n) = decodeFamily8 x y n := by
  rw [decode_family8 (fieldF_packXYN (by decide) x y n) (fieldN_packXYN (by decide) hn x y),
    fieldX_packXYN (by decide), fieldY_packXYN (by decide)]

theorem decode_packXNNE (x : Reg) (nn : Byte) : decode (packXNN 0xE x nn) = decodeFamilyE x nn := by
  rw [decode_familyE (fieldF_packXNN (by decide) x nn) (slice_7_0_packXNN (by decide) x nn),
    fieldX_packXNN (by decide), BitVec.ofNat_toNat, BitVec.setWidth_eq]

theorem decode_packXNNF (x : Reg) (nn : Byte) : decode (packXNN 0xF x nn) = decodeFamilyF x nn := by
  rw [decode_familyF (fieldF_packXNN (by decide) x nn) (slice_7_0_packXNN (by decide) x nn),
    fieldX_packXNN (by decide), BitVec.ofNat_toNat, BitVec.setWidth_eq]

/-- A well-formed instruction is what its word decodes to (R72, R74). -/
theorem decode_encode {i : Instr} (h : i.wf = true) : decode (encode i) = .ok i := by
  cases i with
  | cls | ret => decide
  | jp nnn | call nnn | ldINnn nnn | jpV0Nnn nnn =>
    have hn : nnn < 0x1000 := of_decide_eq_true h
    simp [encode, decode, fieldF_packA12, fieldNNN_packA12, hn]
  | seVxNn x nn | sneVxNn x nn | ldVxNn x nn | addVxNn x nn | rnd x nn =>
    simp [encode, decode, fieldF_packXNN, fieldX_packXNN, fieldNN_packXNN]
  | seVxVy x y | sneVxVy x y =>
    simp [encode, decode, fieldF_packXYN, fieldX_packXYN, fieldY_packXYN, fieldN_packXYN]
  | drw x y n =>
    have hn : n < 16 := of_decide_eq_true h
    simp [encode, decode, fieldF_packXYN, fieldX_packXYN, fieldY_packXYN, fieldN_packXYN, hn]
  | ldVxVy x y | or x y | and x y | xor x y | addVxVy x y | sub x y | shr x y | subn x y | shl x y =>
    exact decode_packXYN8 x y (by decide)
  | skp x | sknp x => exact decode_packXNNE x _
  | ldVxDt x | ldDtVx x | ldStVx x | addIVx x | ldBVx x | ldMemIVx x | ldVxMemI x => exact decode_packXNNF x _

/-- The bytes of a word before any others decode as the word does, and the others are what is left (R53, R70). -/
theorem decodeBytes_bytes {w : Word} {i : Instr} (h : decode w = .ok i) (rest : List Byte) :
    decodeBytes (highByte w :: lowByte w :: rest) = .ok (i, rest) := by
  simp [decodeBytes, assemble_bytes, h]

/-- The row of an instruction's mnemonic covers its encoding (R76). -/
theorem encodesItsRow (i : Instr) : EncodesItsRow.Statement i := by
  cases i with
  | cls => exact EncodesItsRow.cls
  | ret => exact EncodesItsRow.ret
  | jp nnn => exact EncodesItsRow.jp nnn
  | call nnn => exact EncodesItsRow.call nnn
  | seVxNn x nn => exact EncodesItsRow.seVxNn x nn
  | sneVxNn x nn => exact EncodesItsRow.sneVxNn x nn
  | seVxVy x y => exact EncodesItsRow.seVxVy x y
  | ldVxNn x nn => exact EncodesItsRow.ldVxNn x nn
  | addVxNn x nn => exact EncodesItsRow.addVxNn x nn
  | ldVxVy x y => exact EncodesItsRow.ldVxVy x y
  | or x y => exact EncodesItsRow.or x y
  | and x y => exact EncodesItsRow.and x y
  | xor x y => exact EncodesItsRow.xor x y
  | addVxVy x y => exact EncodesItsRow.addVxVy x y
  | sub x y => exact EncodesItsRow.sub x y
  | shr x y => exact EncodesItsRow.shr x y
  | subn x y => exact EncodesItsRow.subn x y
  | shl x y => exact EncodesItsRow.shl x y
  | sneVxVy x y => exact EncodesItsRow.sneVxVy x y
  | ldINnn nnn => exact EncodesItsRow.ldINnn nnn
  | jpV0Nnn nnn => exact EncodesItsRow.jpV0Nnn nnn
  | rnd x nn => exact EncodesItsRow.rnd x nn
  | drw x y n => exact EncodesItsRow.drw x y n
  | skp x => exact EncodesItsRow.skp x
  | sknp x => exact EncodesItsRow.sknp x
  | ldVxDt x => exact EncodesItsRow.ldVxDt x
  | ldDtVx x => exact EncodesItsRow.ldDtVx x
  | ldStVx x => exact EncodesItsRow.ldStVx x
  | addIVx x => exact EncodesItsRow.addIVx x
  | ldBVx x => exact EncodesItsRow.ldBVx x
  | ldMemIVx x => exact EncodesItsRow.ldMemIVx x
  | ldVxMemI x => exact EncodesItsRow.ldVxMemI x

/-! ### the rows of the opcode table -/

theorem slice_and (v w : Word) (hi lo : Nat) : slice (v &&& w) hi lo = slice v hi lo &&& slice w hi lo := by
  simp only [slice, BitVec.toNat_and, Nat.and_div_two_pow, Nat.and_mod_two_pow]

theorem slice_lt (w : Word) (hi lo : Nat) : slice w hi lo < 2 ^ (hi + 1 - lo) := Nat.mod_lt _ (by positivity)

/-- A covered word agrees with the row's pattern on every field that the mask selects whole. -/
theorem OpcodeRow.covers.slice_eq {row : OpcodeRow} {w : Word} (h : row.covers w) {hi lo : Nat}
    (hm : slice row.mask hi lo = 2 ^ (hi + 1 - lo) - 1) : slice w hi lo = slice row.pattern hi lo := by
  rw [← h, slice_and, hm, Nat.and_two_pow_sub_one_eq_mod, Nat.mod_eq_of_lt (slice_lt w hi lo)]

/-- A row that selects every bit covers its pattern alone. -/
theorem eq_of_covers_allOnes {name : String} {w p : Word} (h : (⟨name, 0xFFFF, p⟩ : OpcodeRow).covers w) : w = p :=
  BitVec.and_allOnes.symm.trans h

/-- The words a row covers decode to an instruction of the row's mnemonic. -/
def OpcodeRow.Decodes (row : OpcodeRow) : Prop :=
  ∀ w, row.covers w → ∃ i, decode w = .ok i ∧ i.mnemonic = row.mnemonic

theorem opcodeRowsLow_decode : ∀ row ∈ opcodeRowsLow, row.Decodes := by
  simp only [opcodeRowsLow, List.forall_mem_cons]
  refine ⟨?_, ?_, ?_, ?_, ?_, ?_, ?_, ?_, ?_, by simp⟩ <;> intro w h
  · obtain rfl := eq_of_covers_allOnes h
    exact ⟨.cls, by decide, rfl⟩
  · obtain rfl := eq_of_covers_allOnes h
    exact ⟨.ret, by decide, rfl⟩
  · exact ⟨_, decode_family1 (h.slice_eq rfl), rfl⟩
  · exact ⟨_, decode_family2 (h.slice_eq rfl), rfl⟩
  · exact ⟨_, decode_family3 (h.slice_eq rfl), rfl⟩
  · exact ⟨_, decode_family4 (h.slice_eq rfl), rfl⟩
  · exact ⟨_, (decode_family5 (h.slice_eq rfl)).trans (if_pos (h.slice_eq rfl)), rfl⟩
  · exact ⟨_, decode_family6 (h.slice_eq rfl), rfl⟩
  · exact ⟨_, decode_family7 (h.slice_eq rfl), rfl⟩

theorem opcodeRowsAlu_decode : ∀ row ∈ opcodeRowsAlu, row.Decodes := by
  simp only [opcodeRowsAlu, List.forall_mem_cons]
  refine ⟨?_, ?_, ?_, ?_, ?_, ?_, ?_, ?_, ?_, by simp⟩ <;> intro w h
  all_goals exact ⟨_, decode_family8 (h.slice_eq rfl) (h.slice_eq rfl), rfl⟩

theorem opcodeRowsHigh_decode : ∀ row ∈ opcodeRowsHigh, row.Decodes := by
  simp only [opcodeRowsHigh, List.forall_mem_cons]
  refine ⟨?_, ?_, ?_, ?_, ?_, ?_, ?_, ?_, ?_, ?_, ?_, ?_, ?_, ?_, by simp⟩ <;> intro w h
  · exact ⟨_, (decode_family9 (h.slice_eq rfl)).trans (if_pos (h.slice_eq rfl)), rfl⟩
  · exact ⟨_, decode_familyA (h.slice_eq rfl), rfl⟩
  · exact ⟨_, decode_familyB (h.slice_eq rfl), rfl⟩
  · exact ⟨_, decode_familyC (h.slice_eq rfl), rfl⟩
  · exact ⟨_, decode_familyD (h.slice_eq rfl), rfl⟩
  · exact ⟨_, decode_familyE (h.slice_eq rfl) (h.slice_eq rfl), rfl⟩
  · exact ⟨_, decode_familyE (h.slice_eq rfl) (h.slice_eq rfl), rfl⟩
  all_goals exact ⟨_, decode_familyF (h.slice_eq rfl) (h.slice_eq rfl), rfl⟩




theorem opcodeTable_decode {row : OpcodeRow} (h : row ∈ opcodeTable) : row.Decodes := by
  rcases List.mem_append.1 h with h | h
  · rcases List.mem_append.1 h with h | h
    · exact opcodeRowsLow_decode row h
    · exact opcodeRowsAlu_decode row h
  · exact opcodeRowsHigh_decode row h

/-! ### the unknown words -/

/-- The low byte is a given byte iff its number is that byte's. -/
theorem fieldNN_eq_iff (w : Word) (b : Byte) : fieldNN w = b ↔ slice w 7 0 = b.toNat := by
  rw [← BitVec.toNat_inj, fieldNN, toNat_ofNat_of_lt (slice_lt w 7 0)]

theorem decodeFamily8_eq_error {x y : Reg} {n : Nat} (hn : n < 16) (c : UnknownClass) :
    decodeFamily8 x y n = .error c ↔ c = .family8 ∧ n ∈ [0x8, 0x9, 0xA, 0xB, 0xC, 0xD, 0xF] := by
  interval_cases n <;> simp [decodeFamily8, eq_comm]

theorem decodeFamilyE_eq_error (w : Word) (c : UnknownClass) :
    decodeFamilyE (fieldX w) (fieldNN w) = .error c ↔ c = .familyE ∧ slice w 7 0 ∉ [0x9E, 0xA1] := by
  simp only [decodeFamilyE, fieldNN_eq_iff, @eq_comm _ c]
  split_ifs <;> simp_all

theorem decodeFamilyF_eq_error (w : Word) (c : UnknownClass) :
    decodeFamilyF (fieldX w) (fieldNN w) = .error c ↔
      c = .familyF ∧ slice w 7 0 ∉ [0x07, 0x15, 0x18, 0x1E, 0x33, 0x55, 0x65] := by
  simp only [decodeFamilyF, fieldNN_eq_iff, @eq_comm _ c]
  split_ifs <;> simp_all

/-- A word the decoder rejects is in the class it is rejected under (R77). -/
theorem inUnknownClass_of_decode {w : Word} {c : UnknownClass} (h : decode w = .error c) : InUnknownClass w c := by
  unfold decode at h
  split at h
  case h_1 hF =>
    split_ifs at h with hcls hret
    cases h
    exact ⟨hF, hcls, hret⟩
  case h_6 hF | h_10 hF =>
    split_ifs at h with hN
    cases h
    exact ⟨hF, hN⟩
  case h_9 hF =>
    obtain ⟨rfl, hN⟩ := (decodeFamily8_eq_error (fieldN_lt w) c).1 h
    exact ⟨hF, hN⟩
  case h_15 hF =>
    obtain ⟨rfl, hNN⟩ := (decodeFamilyE_eq_error w c).1 h
    exact ⟨hF, hNN⟩
  case h_16 =>
    have hF : fieldF w = 0xF := by
      have hlt := fieldF_lt w
      simp only [imp_false] at *
      omega
    obtain ⟨rfl, hNN⟩ := (decodeFamilyF_eq_error w c).1 h
    exact ⟨hF, hNN⟩
  all_goals cases h

/-- A word of a class of R77 is rejected under that class. -/
theorem decode_of_inUnknownClass {w : Word} {c : UnknownClass} (h : InUnknownClass w c) : decode w = .error c := by
  cases c with
  | family0 =>
    obtain ⟨hF, hcls, hret⟩ := h
    rw [decode_family0 hF, if_neg hcls, if_neg hret]
  | family5 =>
    obtain ⟨hF, hN⟩ := h
    exact (decode_family5 hF).trans (if_neg hN)
  | family8 =>
    obtain ⟨hF, hN⟩ := h
    rw [decode_family8 hF rfl]
    exact (decodeFamily8_eq_error (fieldN_lt w) _).2 ⟨rfl, hN⟩
  | family9 =>
    obtain ⟨hF, hN⟩ := h
    exact (decode_family9 hF).trans (if_neg hN)
  | familyE =>
    obtain ⟨hF, hNN⟩ := h
    exact (decode_familyE hF rfl).trans ((decodeFamilyE_eq_error w _).2 ⟨rfl, hNN⟩)
  | familyF =>
    obtain ⟨hF, hNN⟩ := h
    exact (decode_familyF hF rfl).trans ((decodeFamilyF_eq_error w _).2 ⟨rfl, hNN⟩)

/-! ### the statements -/

/-- Settles O1: the decoder is run on each of the fifteen words. -/
theorem wordsOfTheOpcodeMapDecode : Obligations.WordsOfTheOpcodeMapDecode := by
  unfold Obligations.WordsOfTheOpcodeMapDecode
  decide

/-- Settles O2: `decode_encode`, and the two bytes of a word assemble to the word. -/
theorem decodeInvertsEncode : Obligations.DecodeInvertsEncode :=
  fun _ rest h => ⟨decode_encode h, decodeBytes_bytes (decode_encode h) rest⟩

/-- Settles O3: each family of the decoder reads the fields that the encoder packs. -/
theorem encodeInvertsDecode : Obligations.EncodeInvertsDecode :=
  fun _ _ h => ⟨decode_wf h, encode_of_decode h⟩

/-- Settles O4: a decoded word is the encoding of its instruction, which that instruction's row covers; and a word that
a row covers decodes to an instruction of that row's mnemonic. -/
theorem decoderAgreesWithOpcodeTable : Obligations.DecoderAgreesWithOpcodeTable := by
  intro w
  refine ⟨⟨?_, fun hnone => ?_⟩, fun i hi row hrow hcovers => ?_⟩
  · rintro ⟨c, hc⟩ row hrow hcovers
    obtain ⟨i, hi, -⟩ := opcodeTable_decode hrow w hcovers
    cases hc.symm.trans hi
  · cases hd : decode w with
    | error c => exact ⟨c, rfl⟩
    | ok i =>
      obtain ⟨row, hrow, -, hcovers⟩ := encodesItsRow i
      rw [encode_of_decode hd] at hcovers
      exact absurd hcovers (hnone row hrow)
  · obtain ⟨j, hj, hname⟩ := opcodeTable_decode hrow w hcovers
    cases hj.symm.trans hi
    exact hname.symm

/-- Settles O5: the two directions hold family by family. -/
theorem unknownWordsAreThoseListed : Obligations.UnknownWordsAreThoseListed :=
  fun _ _ => ⟨inUnknownClass_of_decode, decode_of_inUnknownClass⟩

end Sys2Proof
end

section
/-! SUPPORT. Control transfer (40_flow.md): what CALL answers, the fault entries of the stack and of the key index, and
the statements of the family they settle. -/

namespace Sys2Proof.Machine

open Sys2Proof.Claims

/-! ### frames -/

/-- A frame need not name a component that agrees anyway. -/
theorem UnchangedBut.of_agree {s t : State} {c : Component} {l : List Component} (h : UnchangedBut (c :: l) s t)
    (hc : c.agree s t) : UnchangedBut l s t := by
  intro d hd
  by_cases hdc : d = c
  · exact hdc ▸ hc
  · exact h d (by simp [hdc, hd])

theorem reportDepth_frame (s : State) : UnchangedBut [.diag] s (reportDepth s) := by
  rcases reportDepth_cases s with ⟨-, h⟩ | ⟨-, h⟩ <;> rw [h]
  · exact report_frame s _
  · exact UnchangedBut.refl _ s

/-! ### CALL -/

/-- The state a CALL below capacity answers (R104). -/
def called (nnn : Nat) (s : State) : State := reportDepth ((s.push s.PC).setPC nnn)

theorem exec_call_of_ne {s : State} (h : s.cfg.stackCapacity ≠ some s.S.length) (nnn : Nat) :
    exec (.call nnn) s = .next (called nnn s) := by
  have hfull : ¬stackFull s = true := fun hf => h ((stackFull_iff s).1 hf)
  simp [exec, execCall, hfull, called]

theorem exec_call_of_eq {s : State} (h : s.cfg.stackCapacity = some s.S.length) (nnn : Nat) :
    exec (.call nnn) s = .next (raise (.stackOverflow s.S.length) s) := by
  simp [exec, execCall, (stackFull_iff s).2 h]

theorem called_PC (nnn : Nat) (s : State) : (called nnn s).PC = nnn := reportDepth_frame _ .PC (by simp)

theorem called_S (nnn : Nat) (s : State) : (called nnn s).S = s.S ++ [s.PC] := reportDepth_frame _ .S (by simp)

/-- CALL reports the new depth if it is above 16, and nothing otherwise (R234). -/
theorem called_diag (nnn : Nat) (s : State) :
    (called nnn s).diag = s.diag ++ if 16 < s.S.length + 1 then [.stackDeep (s.S.length + 1)] else [] := by
  rcases reportDepth_cases ((s.push s.PC).setPC nnn) with ⟨hlt, h⟩ | ⟨hle, h⟩
  · simp_all [called]
  · simp_all [called]

theorem called_frame (nnn : Nat) (s : State) : UnchangedBut [.PC, .S, .diag] s (called nnn s) :=
  (((push_frame s s.PC).mono (by simp)).trans ((setPC_frame _ nnn).mono (by simp))).trans
    ((reportDepth_frame _).mono (by simp))

/-! ### BNNN -/

theorem exec_jpV0Nnn (nnn : Nat) (s : State) :
    exec (.jpV0Nnn nnn) s = .next (s.setPC (nnn + (s.getV 0).toNat)) := rfl

/-! ### fault entry -/

/-- The fault entry leaves the record of R225 and R226 and nothing else. -/
theorem raise_faultedBy (c : FaultCause) (s : State) : FaultedBy c s (raise c s) := ⟨rfl, rfl, raise_frame c s⟩

/-! ### the statements -/

/-- Settles O27: a push, a jump and the report of the depth, each with its frame. -/
theorem callPushesTheReturnAddress : Obligations.CallPushesTheReturnAddress := by
  intro s nnn h
  have hlen : (called nnn s).S.length = s.S.length + 1 := by simp [called_S]
  refine ⟨_, exec_call_of_ne h nnn, called_PC nnn s, called_S nnn s, fun hdeep => ?_, fun hflat => ?_,
    called_frame nnn s⟩
  · rw [called_diag, hlen, if_pos (hlen ▸ hdeep)]
  · rw [called_diag, if_neg (by omega), List.append_nil]

/-- Settles O28: RET pops what CALL pushed, so of the three components CALL writes only the log may differ. -/
theorem retAfterCallReturns : Obligations.RetAfterCallReturns := by
  intro s nnn h
  refine ⟨_, _, exec_call_of_ne h nnn, exec_ret_concat (called_S nnn s), rfl, rfl, ?_⟩
  have hpop := ((setS_frame (called nnn s) s.S).mono (l' := [.PC, .S, .diag]) (by simp)).trans
    ((setPC_frame _ s.PC).mono (by simp))
  exact (((called_frame nnn s).trans hpop).of_agree rfl).of_agree rfl

/-- Settles O29: a jump to a sum of natural numbers, with no mask. -/
theorem jpV0AddsV0 : Obligations.JpV0AddsV0 :=
  ⟨fun _ => decode_familyB, fun s nnn => ⟨_, exec_jpV0Nnn nnn s, rfl, setPC_frame s _⟩⟩

/-- Settles O31: the decoder tests the low nibble, and both instructions skip on their condition. -/
theorem skipsOnRegisters : Obligations.SkipsOnRegisters := by
  refine ⟨fun w => decode_family5, fun w => decode_family9, fun s x y => ⟨?_, ?_⟩⟩
  · exact ⟨_, exec_of_skipCondition rfl, skipIf_skipsWhen s _⟩
  · exact ⟨_, exec_of_skipCondition rfl, skipIf_skipsWhen s _⟩

/-- Settles O55: each of the four instructions enters its fault by `raise`, which keeps the record's promise. -/
theorem stackAndKeyFaultRecords : Obligations.StackAndKeyFaultRecords := by
  refine ⟨fun s h => ?_, fun s nnn h => ?_, fun s x h => ⟨?_, ?_⟩⟩
  · exact ⟨_, exec_ret_nil h, raise_faultedBy _ s⟩
  · exact ⟨_, exec_call_of_eq h nnn, raise_faultedBy _ s⟩
  · exact ⟨_, (exec_skp x s).trans (skipOnKey_of_lt h true), raise_faultedBy _ s⟩
  · exact ⟨_, (exec_sknp x s).trans (skipOnKey_of_lt h false), raise_faultedBy _ s⟩

end Sys2Proof.Machine
end

section
/-! SUPPORT. Register and ALU instructions (41_alu.md): the logical results, the shifts and the bits they shift out, and
the statements of the family they settle. -/

namespace Sys2Proof.Machine

open Sys2Proof.Claims

/-! ### what the instructions answer -/

theorem exec_or (x y : Reg) (s : State) :
    exec (.or x y) s = .next (s.setLogicResult x (s.getV x ||| s.getV y)) := rfl

theorem exec_and (x y : Reg) (s : State) :
    exec (.and x y) s = .next (s.setLogicResult x (s.getV x &&& s.getV y)) := rfl

theorem exec_xor (x y : Reg) (s : State) :
    exec (.xor x y) s = .next (s.setLogicResult x (s.getV x ^^^ s.getV y)) := rfl

theorem exec_shr (x y : Reg) (s : State) :
    exec (.shr x y) s = .next (s.setResultThenFlag x (shr8 (s.getV (shiftSource s.cfg x y)))
      (lowBitFlag (s.getV (shiftSource s.cfg x y)))) := rfl

theorem exec_shl (x y : Reg) (s : State) :
    exec (.shl x y) s = .next (s.setResultThenFlag x (shl8 (s.getV (shiftSource s.cfg x y)))
      (highBitFlag (s.getV (shiftSource s.cfg x y)))) := rfl

theorem exec_rnd (x : Reg) (nn : Byte) (s : State) : exec (.rnd x nn) s = .next (s.setV x (s.cur.rnd &&& nn)) := rfl

/-! ### shifts as numbers -/

theorem toNat_shr8 (b : Byte) : (shr8 b).toNat = b.toNat / 2 := by
  have := b.isLt
  exact toNat_ofNat_of_lt (by omega)

theorem toNat_shl8 (b : Byte) : (shl8 b).toNat = b.toNat * 2 % 256 := BitVec.toNat_ofNat _ _

theorem toNat_lowBitFlag (b : Byte) : (lowBitFlag b).toNat = b.toNat % 2 := toNat_ofNat_of_lt (by omega)

theorem toNat_highBitFlag (b : Byte) : (highBitFlag b).toNat = if 128 ≤ b.toNat then 1 else 0 := by
  have := b.isLt
  rw [highBitFlag, toNat_ofNat_of_lt (by omega)]
  split <;> omega

/-! ### logical results -/

/-- A logical result whose bits combine those of V[x] and V[y] does what R134 to R137 say. -/
theorem setLogicResult_writesLogic {op : Bool → Bool → Bool} {x y : Reg} {s : State} {b : Byte}
    (hb : ∀ k < 8, b.getLsbD k = op ((s.getV x).getLsbD k) ((s.getV y).getLsbD k)) :
    WritesLogic op x y s (s.setLogicResult x b) := by
  refine ⟨fun hx => ?_, fun hq => ?_, fun r hr hrF => ?_, setLogicResult_frame s x b⟩ <;>
    rw [setLogicResult_getV]
  · rwa [if_neg hx, if_pos rfl]
  · exact if_pos ⟨hq, rfl⟩
  · rw [if_neg hrF, if_neg hr]

/-! ### the statements -/

/-- Settles O36: each bit of the word operation is the operation on the bits. -/
theorem logicIsBitwise : Obligations.LogicIsBitwise := by
  refine fun s x y => ⟨?_, ?_, ?_⟩
  · exact ⟨_, exec_or x y s, setLogicResult_writesLogic fun k _ => BitVec.getLsbD_or⟩
  · exact ⟨_, exec_and x y s, setLogicResult_writesLogic fun k _ => BitVec.getLsbD_and⟩
  · exact ⟨_, exec_xor x y s, setLogicResult_writesLogic fun k _ => by simp⟩

/-- Settles O39: the source is read once, and its half or double and the bit shifted out are computed from it. -/
theorem shiftsSetTheBitShiftedOut : Obligations.ShiftsSetTheBitShiftedOut := by
  rintro s x y v rfl
  refine ⟨⟨_, exec_shr x y s, ?_⟩, ⟨_, exec_shl x y s, ?_⟩⟩
  · exact setResultThenFlag_writesResultThenFlag (toNat_shr8 _) (toNat_lowBitFlag _)
  · exact setResultThenFlag_writesResultThenFlag (toNat_shl8 _) (toNat_highBitFlag _)

/-- Settles O40: a single register write of the latched random byte masked by NN. -/
theorem randomIsMasked : Obligations.RandomIsMasked := by
  refine fun s x nn => ⟨_, exec_rnd x nn s, fun k _ => ?_, fun r hr => ?_, setV_frame s x _⟩
  · simp
  · simp [hr]

end Sys2Proof.Machine
end

section
/-! SUPPORT. Index register and memory instructions (42_index_memory.md): the two answers of FX55 and FX65, and the
statements of the family they settle. -/

namespace Sys2Proof.Machine

open Sys2Proof.Claims

/-! ### what the instructions answer -/

theorem exec_ldMemIVx_of_lt {s : State} {x : Reg} (h : s.I.toNat + x.val < s.cfg.memSize) :
    exec (.ldMemIVx x) s = .next (State.bumpI x (s.setMem (s.mem.writeBytes s.I.toNat (s.regsUpTo x)))) :=
  storeAtI_of_le (by rw [regsUpTo_length]; omega) _

theorem exec_ldMemIVx_of_le {s : State} {x : Reg} (h : s.cfg.memSize ≤ s.I.toNat + x.val) :
    exec (.ldMemIVx x) s =
      .next (raise (.writeOob (max s.I.toNat s.cfg.memSize) s.I.toNat (x.val + 1)) s) := by
  have hstore := storeAtI_of_lt (bytes := s.regsUpTo x) (s := s) (by simp) (by rw [regsUpTo_length]; omega)
    (State.bumpI x)
  rwa [regsUpTo_length] at hstore

theorem exec_ldVxMemI_of_lt {s : State} {x : Reg} (h : s.I.toNat + x.val < s.cfg.memSize) :
    exec (.ldVxMemI x) s = .next (State.bumpI x (State.loadRegs x s)) := by
  have hin := (rangeFault_eq_none s.cfg.memSize s.I.toNat (x.val + 1)).2 (.inr h)
  simp [exec, execLdVxMemI, hin]

theorem exec_ldVxMemI_of_le {s : State} {x : Reg} (h : s.cfg.memSize ≤ s.I.toNat + x.val) :
    exec (.ldVxMemI x) s =
      .next (raise (.readOob (max s.I.toNat s.cfg.memSize) s.I.toNat (x.val + 1)) s) := by
  have hout := (rangeFault_eq_some s.cfg.memSize s.I.toNat (x.val + 1) _).2
    ⟨x.val.succ_pos, Nat.lt_succ_of_le h, rfl⟩
  simp [exec, execLdVxMemI, hout]

theorem exec_drw_of_le {s : State} {n : Nat} (hpos : 0 < n) (h : s.cfg.memSize ≤ s.I.toNat + n - 1) (x y : Reg) :
    exec (.drw x y n) s = .next (raise (.readOob (max s.I.toNat s.cfg.memSize) s.I.toNat n) s) := by
  have hout := (rangeFault_eq_some s.cfg.memSize s.I.toNat n _).2 ⟨hpos, by omega, rfl⟩
  simp [exec, execDrw, hout]

/-! ### the index update -/

theorem toNat_bumpI_I (x : Reg) (s : State) :
    (State.bumpI x s).I.toNat =
      if s.cfg.qMemIncrI = true then (s.I.toNat + x.val + 1) % 65536 else s.I.toNat := by
  rw [bumpI_I]
  split
  · exact toNat_indexPlus s (x.val + 1)
  · rfl

/-! ### the statements -/

/-- Settles O44: one consecutive write of V[0] to V[X], then the index update, which leaves memory alone. -/
theorem storeSavesRegisters : Obligations.StoreSavesRegisters := by
  intro s x hin
  refine ⟨_, exec_ldMemIVx_of_lt hin, fun k hk => ?_, fun a ha => ?_, toNat_bumpI_I x _, ?_⟩
  · exact (bumpI_frame x _ .mem (by simp) _).trans
      (Memory.read_writeBytes_of_getElem? (regsUpTo_getElem? s x k hk) _ _)
  · exact (bumpI_frame x _ .mem (by simp) a).trans
      (Memory.read_writeBytes_outside _ _ _ _ (by rw [regsUpTo_length]; omega))
  · exact ((setMem_frame s _).mono (by simp)).trans ((bumpI_frame x _).mono (by simp))

/-- Settles O45: the transfers of FX65, then the index update, which leaves the registers alone. -/
theorem loadRestoresRegisters : Obligations.LoadRestoresRegisters := by
  intro s x hin
  refine ⟨_, exec_ldVxMemI_of_lt hin, fun k hk => ?_, fun k hk => ?_, toNat_bumpI_I x _, ?_⟩
  · rw [bumpI_frame x _ .V (by simp), State.loadRegs_getV, if_pos hk]
  · rw [bumpI_frame x _ .V (by simp), State.loadRegs_getV, if_neg (not_le.2 hk)]
  · exact ((loadRegs_frame s x).mono (by simp)).trans ((bumpI_frame x _).mono (by simp))

/-- Settles O46: all four instructions check their whole range first, and enter the fault by `raise`. -/
theorem outOfRangeAccessFaults : Obligations.OutOfRangeAccessFaults := by
  refine fun s x y => ⟨fun n hpos h => ?_, fun h => ?_, fun h => ⟨?_, ?_⟩⟩
  · exact ⟨_, exec_drw_of_le hpos h x y, raise_faultedBy _ s⟩
  · exact ⟨_, storeAtI_of_lt (bytes := bcdDigits (s.getV x)) (by simp) (Nat.lt_succ_of_le h) id, raise_faultedBy _ s⟩
  · exact ⟨_, exec_ldMemIVx_of_le h, raise_faultedBy _ s⟩
  · exact ⟨_, exec_ldVxMemI_of_le h, raise_faultedBy _ s⟩

/-- Settles O24: FX55 puts V[k] and V[k + 1] at the two addresses, and a fetch assembles what is there. -/
theorem fetchSeesStoredBytes : Obligations.FetchSeesStoredBytes := by
  intro s x k k' hin hk' hle
  have hk'x : k'.val ≤ x.val := hle
  obtain ⟨t, hexec, hstored, -, -, hframe⟩ := storeSavesRegisters s x hin
  have hcfg : t.cfg = s.cfg := hframe .cfg (by simp)
  have hword : t.wordAt (s.I.toNat + k.val) = assemble (s.getV k) (s.getV k') := by
    have hk'' : s.I.toNat + k.val + 1 = s.I.toNat + k'.val := by omega
    rw [State.wordAt, hk'', hstored k (Fin.le_def.2 (by omega)), hstored k' hle]
  rcases fetch_cases (t.setPC (s.I.toNat + k.val)) with ⟨h, -⟩ | ⟨h, -⟩ | ⟨-, h⟩
  · simp only [State.setPC_cfg, State.setPC_PC, hcfg] at h
    omega
  · simp only [State.setPC_cfg, State.setPC_PC, hcfg] at h
    omega
  · exact ⟨t, _, hexec, h.trans (by rw [← hword]; rfl)⟩

end Sys2Proof.Machine
end

section
/-! SUPPORT. Display instructions (43_display.md): where a sprite's cells lie, that they are distinct, what a draw does
to the screen and to VF, and the statements of the family they settle. -/

namespace Sys2Proof.Machine

open Sys2Proof.Claims

/-! ### where a sprite's cells lie -/

theorem place_wrap_eq_some (a b : Nat) (p : Pixel) :
    place .wrap a b = some p ↔ p.1.val = a % 64 ∧ p.2.val = b % 32 := by
  simp [place, Prod.ext_iff, Fin.ext_iff, eq_comm]

theorem place_clip_eq_some (a b : Nat) (p : Pixel) : place .clip a b = some p ↔ p.1.val = a ∧ p.2.val = b := by
  have h1 := p.1.isLt
  have h2 := p.2.isLt
  by_cases hin : a < 64 ∧ b < 32
  · simp [place, hin, Prod.ext_iff, Fin.ext_iff, eq_comm]
  · simp only [place, hin, dite_false, reduceCtorEq, false_iff]
    omega

/-- Under both policies a cell keeps the coordinates mod 64 and mod 32 (R182). -/
theorem mod_of_place {edge : DrawEdge} {a b : Nat} {p : Pixel} (h : place edge a b = some p) :
    p.1.val = a % 64 ∧ p.2.val = b % 32 := by
  have h1 := p.1.isLt
  have h2 := p.2.isLt
  cases edge with
  | wrap => exact (place_wrap_eq_some a b p).1 h
  | clip =>
    obtain ⟨ha, hb⟩ := (place_clip_eq_some a b p).1 h
    omega

/-- `place` puts a sprite pixel where R182 says it lands. -/
theorem landsOn_iff (s : State) (x y : Reg) (r c : Nat) (p : Pixel) :
    LandsOn s x y r c p ↔
      place s.cfg.drawEdge (startColumn (s.getV x) + c) (startRow (s.getV y) + r) = some p := by
  unfold LandsOn
  split <;> rename_i hedge <;> rw [hedge]
  · exact (place_wrap_eq_some _ _ p).symm
  · exact (place_clip_eq_some _ _ p).symm

/-- The cells DXYN draws are those its sprite covers. -/
theorem mem_drawnPixels (s : State) (x y : Reg) (n : Nat) (p : Pixel) :
    p ∈ s.drawnPixels x y n ↔ SpriteCovers s x y n p := by
  simp only [State.drawnPixels, mem_spritePixels, SpriteCovers, landsOn_iff]
  rfl

/-! ### the cells are distinct -/

/-- A cell of a row comes from one of its eight columns. -/
theorem mem_rowPixels {edge : DrawEdge} {x0 y : Nat} {row : Byte} {p : Pixel} (h : p ∈ rowPixels edge x0 y row) :
    ∃ c < 8, place edge (x0 + c) y = some p := by
  obtain ⟨c, hc, hp⟩ := List.mem_filterMap.1 h
  split at hp
  · exact ⟨c, List.mem_range.1 hc, hp⟩
  · cases hp

/-- Eight columns are distinct mod 64. -/
theorem nodup_rowPixels (edge : DrawEdge) (x0 y : Nat) (row : Byte) : (rowPixels edge x0 y row).Nodup := by
  rw [rowPixels, List.Nodup, List.pairwise_filterMap]
  refine List.pairwise_lt_range.imp_of_mem fun {c d} hc hd hlt p hp q hq => ?_
  rw [List.mem_range] at hc hd
  split at hp
  · split at hq
    · rintro rfl
      have h1 := (mod_of_place hp).1
      have h2 := (mod_of_place hq).1
      omega
    · cases hq
  · cases hp

/-- Fewer than 32 rows are distinct mod 32. -/
theorem nodup_spritePixels (edge : DrawEdge) (m : Memory) (base x0 y0 : Nat) {n : Nat} (hn : n < 16) :
    (spritePixels edge m base n x0 y0).Nodup := by
  refine List.nodup_flatMap.2 ⟨fun r _ => nodup_rowPixels edge x0 (y0 + r) _, ?_⟩
  refine List.pairwise_lt_range.imp_of_mem fun {r r'} hr hr' hlt p hp hp' => ?_
  rw [List.mem_range] at hr hr'
  obtain ⟨c, -, hc⟩ := mem_rowPixels hp
  obtain ⟨c', -, hc'⟩ := mem_rowPixels hp'
  have h1 := (mod_of_place hc).2
  have h2 := (mod_of_place hc').2
  omega

/-! ### a draw -/

/-- The state a draw in range answers (R181, R184). -/
def drawn (x y : Reg) (n : Nat) (s : State) : State :=
  (s.setFB (xorPixels (s.drawnPixels x y n) s.FB false).1).setV regF
    (collisionFlag (xorPixels (s.drawnPixels x y n) s.FB false).2)

theorem exec_drw_of_fits {s : State} {n : Nat} (h : n = 0 ∨ s.I.toNat + n ≤ s.cfg.memSize) (x y : Reg) :
    exec (.drw x y n) s = .next (drawn x y n s) := by
  simp [exec, execDrw, (rangeFault_eq_none _ _ _).2 h, drawn]

theorem drawn_frame (x y : Reg) (n : Nat) (s : State) : UnchangedBut [.FB, .V] s (drawn x y n s) :=
  ((setFB_frame s _).mono (by simp)).trans ((setV_frame _ regF _).mono (by simp))

theorem drawn_getV_of_ne (x y : Reg) (n : Nat) (s : State) {r : Reg} (h : r ≠ 15) :
    (drawn x y n s).getV r = s.getV r := by
  simp [drawn, h]

/-- A draw flips the cells of the sprite and no other (R184). -/
theorem pixelOn_drawn (x y : Reg) {n : Nat} (hn : n < 16) (s : State) (p : Pixel) :
    pixelOn (drawn x y n s).FB p = Bool.xor (pixelOn s.FB p) (decide (p ∈ s.drawnPixels x y n)) :=
  (xorPixels_spec _ (nodup_spritePixels _ _ _ _ _ hn) s.FB false).1 p

/-- A draw sets VF iff a cell of the sprite was on (R184). -/
theorem drawn_getV_flag (x y : Reg) {n : Nat} (hn : n < 16) (s : State) :
    (drawn x y n s).getV 15 = flagByte ((s.drawnPixels x y n).any (pixelOn s.FB)) := by
  have hcollided := (xorPixels_spec (s.drawnPixels x y n) (nodup_spritePixels _ _ _ _ _ hn) s.FB false).2
  rw [Bool.false_or] at hcollided
  rw [drawn, State.setV_getV, if_pos rfl, hcollided, collisionFlag]

theorem any_drawnPixels (x y : Reg) (n : Nat) (s : State) (fb : Framebuffer) :
    (s.drawnPixels x y n).any (pixelOn fb) = true ↔ ∃ p, SpriteCovers s x y n p ∧ pixelOn fb p = true := by
  simp only [List.any_eq_true, mem_drawnPixels]

/-- Where the coordinates are not in VF, a draw leaves the cells of the sprite where they were. -/
theorem drawnPixels_drawn {x y : Reg} (hx : x ≠ 15) (hy : y ≠ 15) (n : Nat) (s : State) :
    (drawn x y n s).drawnPixels x y n = s.drawnPixels x y n := by
  have hplace : (drawn x y n s).drawnPixels x y n = spritePixels s.cfg.drawEdge s.mem s.I.toNat n
      (startColumn ((drawn x y n s).getV x)) (startRow ((drawn x y n s).getV y)) := rfl
  rw [hplace, drawn_getV_of_ne x y n s hx, drawn_getV_of_ne x y n s hy, State.drawnPixels]

theorem flagByte_eq_one (c : Bool) : flagByte c = 1 ↔ c = true := by cases c <;> decide

/-! ### the statements -/

/-- Settles O49: two pixels of a row differ mod 64 in x, two rows mod 32 in y. -/
theorem spriteCellsAreDistinct : Obligations.SpriteCellsAreDistinct :=
  fun edge m base _ x0 y0 hn => nodup_spritePixels edge m base x0 y0 hn

/-- Settles O48: the cells are distinct, so the run of XORs flips each once and its collision is the OR over them. -/
theorem drawXorsCoveredPixels : Obligations.DrawXorsCoveredPixels := by
  intro s x y n hn hfits
  refine ⟨_, exec_drw_of_fits hfits x y, fun p hp => ?_, fun p hp => ?_, fun hon => ?_, fun hoff => ?_,
    fun r hr => drawn_getV_of_ne x y n s hr, drawn_frame x y n s⟩
  · simp [pixelOn_drawn x y hn, mem_drawnPixels, hp]
  · simp [pixelOn_drawn x y hn, mem_drawnPixels, hp]
  · rw [drawn_getV_flag x y hn, (any_drawnPixels x y n s s.FB).2 hon]
    rfl
  · rw [drawn_getV_flag x y hn, Bool.eq_false_iff.2 fun h => hoff ((any_drawnPixels x y n s s.FB).1 h)]
    rfl

/-- Settles O50: both draws flip the same cells, so a cell collides in the second iff it was off before the first. -/
theorem doubleDrawRestoresTheScreen : Obligations.DoubleDrawRestoresTheScreen := by
  intro s x y n hn hfits hx hy
  refine ⟨_, _, exec_drw_of_fits hfits x y, exec_drw_of_fits (s := drawn x y n s) hfits x y, fun p => ?_, ?_⟩
  · rw [pixelOn_drawn x y hn, pixelOn_drawn x y hn, drawnPixels_drawn hx hy, Bool.xor_assoc, Bool.xor_self,
      Bool.xor_false]
  · rw [drawn_getV_flag x y hn, flagByte_eq_one, drawnPixels_drawn hx hy, any_drawnPixels]
    refine exists_congr fun p => and_congr_right fun hp => ?_
    simp [pixelOn_drawn x y hn, mem_drawnPixels, hp]

/-- A one-pixel sprite at address 0 on a screen that is all on (log 12). -/
def fullScreen : State :=
  { State.reset with mem := [(0, 0x80)], FB := Vector.replicate 64 (Vector.replicate 32 true) }

theorem pixelOn_fullScreen (p : Pixel) : pixelOn fullScreen.FB p = true := by
  simp [pixelOn, fullScreen]

/-- Refutes O51: on a screen that is all on the first draw turns the sprite's one cell off, and the second turns it on
again without a collision (log 12). -/
theorem not_secondDrawAlwaysCollides : ¬ Obligations.SecondDrawAlwaysCollides := by
  intro h
  have hfits : fullScreen.I.toNat + 1 ≤ fullScreen.cfg.memSize := by decide
  have hcovers : SpriteCovers fullScreen 0 1 1 (0, 0) := ⟨0, by decide, 0, by decide, by decide, by decide, by decide⟩
  obtain ⟨t, u, ht, hu, -, hflag⟩ :=
    doubleDrawRestoresTheScreen fullScreen 0 1 1 (by decide) (.inr hfits) (by decide) (by decide)
  obtain ⟨p, -, hoff⟩ :=
    hflag.1 (h fullScreen 0 1 1 t u (0, 0) (by decide) (by decide) (by decide) hfits hcovers ht hu)
  rw [pixelOn_fullScreen] at hoff
  cases hoff

end Sys2Proof.Machine
end

section
/-! SUPPORT. Timers (44_timers_keys.md): FX18, and the statement of the family it settles. -/

namespace Sys2Proof.Machine

theorem exec_ldStVx (x : Reg) (s : State) : exec (.ldStVx x) s = .next (s.setST (s.getV x)) := rfl

/-- Settles O54: FX18 is `setST`, which writes ST alone. -/
theorem soundTimerTransfer : Obligations.SoundTimerTransfer :=
  fun s x => ⟨_, exec_ldStVx x s, rfl, setST_frame s _⟩

end Sys2Proof.Machine
end

section
/-! SUPPORT. What any of the 32 instructions can do, said once: it enters a fault, or writes the components listed for
it; and the statements about all instructions that follow. -/

namespace Sys2Proof.Machine

open Sys2Proof.Claims

/-! ### the components an instruction writes -/

/-- The components an instruction writes when it does not fault (10_state.md, 20_memory.md R57). -/
def writes (cfg : Config) : Instr → List Component
  | .cls => [.FB]
  | .ret => [.PC, .S]
  | .call _ => [.PC, .S, .diag]
  | .jp _ | .jpV0Nnn _ | .seVxNn _ _ | .sneVxNn _ _ | .seVxVy _ _ | .sneVxVy _ _ | .skp _ | .sknp _ => [.PC]
  | .ldVxNn _ _ | .addVxNn _ _ | .ldVxVy _ _ | .or _ _ | .and _ _ | .xor _ _ | .addVxVy _ _ | .sub _ _ | .shr _ _
  | .subn _ _ | .shl _ _ | .rnd _ _ | .ldVxDt _ => [.V]
  | .drw _ _ _ => [.FB, .V]
  | .ldINnn _ | .addIVx _ => [.I]
  | .ldDtVx _ => [.DT]
  | .ldStVx _ => [.ST]
  | .ldBVx _ => [.mem]
  | .ldMemIVx _ => .mem :: if cfg.qMemIncrI then [.I] else []
  | .ldVxMemI _ => .V :: if cfg.qMemIncrI then [.I] else []

/-- An instruction that does not fault writes its components alone, and memory only by one store in range (R162). -/
structure Completes (i : Instr) (s t : State) : Prop where
  frame : UnchangedBut (writes s.cfg i) s t
  memory : t.mem = s.mem ∨
    ∃ bytes : List Byte, s.I.toNat + bytes.length ≤ s.cfg.memSize ∧ t.mem = s.mem.writeBytes s.I.toNat bytes

@[simp] theorem setLogicResult_mem (s : State) (x : Reg) (b : Byte) : (s.setLogicResult x b).mem = s.mem := by
  unfold State.setLogicResult
  split <;> rfl

@[simp] theorem reportDepth_mem (s : State) : (reportDepth s).mem = s.mem := by
  unfold reportDepth
  split <;> rfl

@[simp] theorem bumpI_mem (x : Reg) (s : State) : (State.bumpI x s).mem = s.mem := by
  unfold State.bumpI
  split <;> rfl

/-- Without the quirk the index update writes nothing (R165). -/
theorem bumpI_frame_quirk (x : Reg) (s : State) :
    UnchangedBut (if s.cfg.qMemIncrI then [.I] else []) s (State.bumpI x s) := by
  unfold State.bumpI
  split
  · exact setI_frame s _
  · exact UnchangedBut.refl _ s

/-- An instruction enters a fault other than FETCH_OOB, or completes (R18, R226). -/
theorem exec_cases (i : Instr) (s : State) :
    (∃ c, (∀ a, c ≠ .fetchOob a) ∧ exec i s = .next (raise c s)) ∨ ∃ t, exec i s = .next t ∧ Completes i s t := by
  cases i with
  | cls => exact .inr ⟨_, rfl, setFB_frame s _, .inl rfl⟩
  | ret =>
    rcases s.pop_cases with ⟨h, -⟩ | ⟨l, a, h, -⟩
    · exact .inl ⟨_, by simp, exec_ret_nil h⟩
    · exact .inr ⟨_, exec_ret_concat h, ((setS_frame s l).mono (by simp [writes])).trans
        ((setPC_frame _ a).mono (by simp [writes])), .inl rfl⟩
  | call nnn =>
    by_cases h : s.cfg.stackCapacity = some s.S.length
    · exact .inl ⟨_, by simp, exec_call_of_eq h nnn⟩
    · exact .inr ⟨_, exec_call_of_ne h nnn, called_frame nnn s, .inl (by simp [called])⟩
  | jp _ | jpV0Nnn _ => exact .inr ⟨_, rfl, setPC_frame s _, .inl rfl⟩
  | seVxNn _ _ | sneVxNn _ _ | seVxVy _ _ | sneVxVy _ _ =>
    exact .inr ⟨_, rfl, skipIf_frame s _, .inl (State.skipIf_mem s _)⟩
  | skp x =>
    rcases skipOnKey_cases x true s with ⟨-, h⟩ | ⟨-, h⟩
    · exact .inl ⟨_, by simp, h⟩
    · exact .inr ⟨_, h, skipIf_frame s _, .inl (State.skipIf_mem s _)⟩
  | sknp x =>
    rcases skipOnKey_cases x false s with ⟨-, h⟩ | ⟨-, h⟩
    · exact .inl ⟨_, by simp, h⟩
    · exact .inr ⟨_, h, skipIf_frame s _, .inl (State.skipIf_mem s _)⟩
  | ldVxNn x _ | addVxNn x _ | ldVxVy x _ | rnd x _ | ldVxDt x => exact .inr ⟨_, rfl, setV_frame s x _, .inl rfl⟩
  | or x _ | and x _ | xor x _ =>
    exact .inr ⟨_, rfl, setLogicResult_frame s x _, .inl (setLogicResult_mem s x _)⟩
  | addVxVy x _ | sub x _ | shr x _ | subn x _ | shl x _ =>
    exact .inr ⟨_, rfl, setResultThenFlag_frame s x _ _, .inl rfl⟩
  | drw x y n =>
    by_cases h : n = 0 ∨ s.I.toNat + n ≤ s.cfg.memSize
    · exact .inr ⟨_, exec_drw_of_fits h x y, drawn_frame x y n s, .inl rfl⟩
    · exact .inl ⟨_, by simp, exec_drw_of_le (by omega) (by omega) x y⟩
  | ldINnn _ | addIVx _ => exact .inr ⟨_, rfl, setI_frame s _, .inl rfl⟩
  | ldDtVx _ => exact .inr ⟨_, rfl, setDT_frame s _, .inl rfl⟩
  | ldStVx _ => exact .inr ⟨_, rfl, setST_frame s _, .inl rfl⟩
  | ldBVx x =>
    rcases storeAtI_cases (bcdDigits (s.getV x)) s id with ⟨-, -, h⟩ | ⟨hin, h⟩
    · exact .inl ⟨_, by simp, h⟩
    · exact .inr ⟨_, h, setMem_frame s _, .inr ⟨_, by simpa using hin, rfl⟩⟩
  | ldMemIVx x =>
    rcases lt_or_ge (s.I.toNat + x.val) s.cfg.memSize with h | h
    · exact .inr ⟨_, exec_ldMemIVx_of_lt h, ((setMem_frame s _).mono (by simp [writes])).trans
        ((bumpI_frame_quirk x _).mono fun c hc => List.mem_cons_of_mem _ hc),
        .inr ⟨_, by rw [regsUpTo_length]; omega, bumpI_mem x _⟩⟩
    · exact .inl ⟨_, by simp, exec_ldMemIVx_of_le h⟩
  | ldVxMemI x =>
    rcases lt_or_ge (s.I.toNat + x.val) s.cfg.memSize with h | h
    · exact .inr ⟨_, exec_ldVxMemI_of_lt h, ((loadRegs_frame s x).mono (by simp [writes])).trans
        ((bumpI_frame_quirk x _).mono fun c hc => List.mem_cons_of_mem _ hc), .inl (bumpI_mem x _)⟩
    · exact .inl ⟨_, by simp, exec_ldVxMemI_of_le h⟩

/-- Every instruction answers a next state (R226). -/
theorem exec_next (i : Instr) (s : State) : ∃ t, exec i s = .next t := by
  rcases exec_cases i s with ⟨c, -, h⟩ | ⟨t, h, -⟩
  · exact ⟨_, h⟩
  · exact ⟨t, h⟩

/-- What an instruction answered is a fault entry or its completion. -/
theorem exec_next_cases {i : Instr} {s t : State} (h : exec i s = .next t) :
    (∃ c, (∀ a, c ≠ .fetchOob a) ∧ t = raise c s) ∨ Completes i s t := by
  rcases exec_cases i s with ⟨c, hc, h'⟩ | ⟨u, h', hu⟩ <;> cases h.symm.trans h'
  · exact .inl ⟨c, hc, rfl⟩
  · exact .inr hu

/-- An instruction writes its components and, by a fault, the PC and the status. -/
theorem exec_frame {i : Instr} {s t : State} (h : exec i s = .next t) :
    UnchangedBut (.PC :: .status :: writes s.cfg i) s t := by
  rcases exec_next_cases h with ⟨c, -, rfl⟩ | hcompl
  · exact (raise_frame c s).mono (by simp)
  · exact hcompl.frame.mono fun c hc => by simp [hc]

/-- A component that an instruction changes is one of those listed for it, the fault entry's apart. -/
theorem mem_writes_of_not_agree {i : Instr} {s t : State} {c : Component} (h : exec i s = .next t)
    (hfault : c ∉ [Component.PC, Component.status]) (hne : ¬c.agree s t) : c ∈ writes s.cfg i := by
  by_contra hc
  exact hne (exec_frame h c (by simp_all))

/-! ### the listed writers -/

theorem DT_mem_writes {cfg : Config} {i : Instr} (h : .DT ∈ writes cfg i) : ∃ x, i = .ldDtVx x := by
  cases i <;> simp_all [writes]

theorem ST_mem_writes {cfg : Config} {i : Instr} (h : .ST ∈ writes cfg i) : ∃ x, i = .ldStVx x := by
  cases i <;> simp_all [writes]

theorem S_mem_writes {cfg : Config} {i : Instr} (h : .S ∈ writes cfg i) : i = .ret ∨ ∃ nnn, i = .call nnn := by
  cases i <;> simp_all [writes]

theorem diag_mem_writes {cfg : Config} {i : Instr} (h : .diag ∈ writes cfg i) : ∃ nnn, i = .call nnn := by
  cases i <;> simp_all [writes]

theorem FB_mem_writes {cfg : Config} {i : Instr} (h : .FB ∈ writes cfg i) :
    i = .cls ∨ ∃ x y n, i = .drw x y n := by
  cases i <;> simp_all [writes]

theorem mem_mem_writes {cfg : Config} {i : Instr} (h : .mem ∈ writes cfg i) :
    ∃ x, i = .ldBVx x ∨ i = .ldMemIVx x := by
  cases i <;> simp_all [writes]

theorem I_mem_writes {cfg : Config} {i : Instr} (h : .I ∈ writes cfg i) :
    (∃ nnn, i = .ldINnn nnn) ∨ ∃ x, i = .addIVx x ∨ (cfg.qMemIncrI = true ∧ (i = .ldMemIVx x ∨ i = .ldVxMemI x)) := by
  cases i <;> simp_all [writes]

/-- No instruction that completes writes the status, the latch, the schedule or the configuration. -/
theorem writes_subset (cfg : Config) (i : Instr) :
    writes cfg i ⊆ [.V, .I, .PC, .S, .DT, .ST, .mem, .FB, .diag] := by
  cases i <;> cases hq : cfg.qMemIncrI <;> simp [writes, hq]

/-- An instruction that completes leaves the state running if it was. -/
theorem Completes.status {i : Instr} {s t : State} (h : Completes i s t) : t.status = s.status :=
  h.frame .status fun hmem => absurd (writes_subset s.cfg i hmem) (by decide)

/-- The execute phase writes neither the latch, the schedule nor the configuration (R33, R206). -/
theorem exec_frame_fixed {i : Instr} {s t : State} (h : exec i s = .next t) :
    UnchangedBut [.V, .I, .PC, .S, .DT, .ST, .mem, .FB, .diag, .status] s t := by
  refine (exec_frame h).mono fun c hc => ?_
  rcases List.mem_cons.1 hc with rfl | hc
  · decide
  rcases List.mem_cons.1 hc with rfl | hc
  · decide
  · exact List.mem_append_left [.status] (writes_subset s.cfg i hc)

/-- An instruction in Running that moves the PC without a fault is a return, a jump, a call, or a skip whose condition
holds (R57, R106). -/
theorem flow_of_PC_ne {i : Instr} {s t : State} (h : exec i s = .next t) (hne : t.PC ≠ s.PC)
    (hrun : t.status = .running) :
    i = .ret ∨ (∃ nnn, i = .jp nnn ∨ i = .call nnn ∨ i = .jpV0Nnn nnn) ∨
      skipCondition s.cur.keys s i = some true := by
  have hcompl : Completes i s t := by
    rcases exec_next_cases h with ⟨c, -, rfl⟩ | hcompl
    · cases hrun
    · exact hcompl
  cases hcond : skipCondition s.cur.keys s i with
  | some b =>
    cases h.symm.trans (exec_of_skipCondition hcond)
    cases b with
    | true => exact .inr (.inr rfl)
    | false => exact absurd rfl hne
  | none =>
    have hflow : .PC ∈ writes s.cfg i := by
      by_contra hpc
      exact hne (hcompl.frame .PC hpc)
    cases i with
    | ret => exact .inl rfl
    | jp nnn => exact .inr (.inl ⟨nnn, .inl rfl⟩)
    | call nnn => exact .inr (.inl ⟨nnn, .inr (.inl rfl)⟩)
    | jpV0Nnn nnn => exact .inr (.inl ⟨nnn, .inr (.inr rfl)⟩)
    | seVxNn _ _ | sneVxNn _ _ | seVxVy _ _ | sneVxVy _ _ => cases hcond
    | skp x =>
      have hout : 15 < (s.getV x).toNat := by simpa [skipCondition] using hcond
      cases h.symm.trans (skipOnKey_of_lt hout true)
      cases hrun
    | sknp x =>
      have hout : 15 < (s.getV x).toNat := by simpa [skipCondition] using hcond
      cases h.symm.trans (skipOnKey_of_lt hout false)
      cases hrun
    | _ => simp [writes] at hflow

/-! ### the statements -/

/-- Settles O22: a component that changed is one of those the instruction writes; for the PC the fault entry is
excluded. -/
theorem onlyListedInstructionsWrite : Obligations.OnlyListedInstructionsWrite := by
  intro i s t h
  refine ⟨fun hne => ?_, fun hne => ?_, fun hne => ?_, fun hne => ?_, fun hne => ?_, fun hne => ?_, fun hne => ?_,
    flow_of_PC_ne h⟩
  · exact DT_mem_writes (mem_writes_of_not_agree h (by decide) hne)
  · exact ST_mem_writes (mem_writes_of_not_agree h (by decide) hne)
  · exact S_mem_writes (mem_writes_of_not_agree h (by decide) hne)
  · exact diag_mem_writes (mem_writes_of_not_agree h (by decide) hne)
  · exact FB_mem_writes (mem_writes_of_not_agree h (by decide) fun hag => hne (framebuffer_ext hag))
  · exact mem_mem_writes (mem_writes_of_not_agree h (by decide) (not_forall.2 hne))
  · exact I_mem_writes (mem_writes_of_not_agree h (by decide) hne)

/-- Settles O21: each write to the register file is one of four shapes, and an instruction that lists no register
write leaves the whole file. -/
theorem onlyListedRegistersAreWritten : Obligations.OnlyListedRegistersAreWritten := by
  intro i s t r h hr
  by_cases hV : .V ∈ writes s.cfg i
  case neg => exact exec_frame h .V (by simpa using hV) r
  cases i with
  | ldVxNn x _ | addVxNn x _ | ldVxVy x _ | rnd x _ | ldVxDt x =>
    cases h
    exact (State.setV_getV _ _ _ _).trans (if_neg (by simpa [mayWriteV] using hr))
  | or x _ | and x _ | xor x _ =>
    cases h
    simp_all [mayWriteV, setLogicResult_getV]
  | addVxVy x _ | sub x _ | shr x _ | subn x _ | shl x _ =>
    cases h
    simp_all [mayWriteV, setResultThenFlag_getV]
  | drw x y n =>
    have hr15 : r ≠ 15 := by simpa [mayWriteV] using hr
    by_cases hin : n = 0 ∨ s.I.toNat + n ≤ s.cfg.memSize
    · cases h.symm.trans (exec_drw_of_fits hin x y)
      exact drawn_getV_of_ne x y n s hr15
    · cases h.symm.trans (exec_drw_of_le (by omega) (by omega) x y)
      rfl
  | ldVxMemI x =>
    have hrx : ¬r ≤ x := by simpa [mayWriteV] using hr
    rcases lt_or_ge (s.I.toNat + x.val) s.cfg.memSize with hin | hout
    · cases h.symm.trans (exec_ldVxMemI_of_lt hin)
      exact (bumpI_frame x _ .V (by simp) r).trans ((State.loadRegs_getV s x r).trans (if_neg hrx))
    · cases h.symm.trans (exec_ldVxMemI_of_le hout)
      rfl
  | _ => simp [writes] at hV

end Sys2Proof.Machine
end

section
/-! SUPPORT. One operation of the machine (40_flow.md R100, R101, 60_exceptions.md R222 to R226): the five things a step
can be, and the statements about every step that follow. -/

namespace Sys2Proof.Machine

open Sys2Proof.Claims

/-! ### taking an operation off the schedule -/

/-- Taking the next operation changes the schedule and the counter of free values at most. -/
theorem nextOp_snd (s : State) : ∃ ops draws, (nextOp s).2 = { s with ops := ops, draws := draws } := by
  rcases nextOp_cases s with ⟨-, h⟩ | ⟨_, _, rest, -, h⟩ | ⟨rest, -, h⟩ | ⟨rest, -, h⟩ <;> rw [h]
  · exact ⟨s.ops, s.draws, rfl⟩
  · exact ⟨rest, s.draws, rfl⟩
  · exact ⟨rest, s.draws + 1, rfl⟩
  · exact ⟨rest, s.draws, rfl⟩

@[simp] theorem nextOp_PC (s : State) : (nextOp s).2.PC = s.PC := nextOp_frame s .PC (by simp)
@[simp] theorem nextOp_cfg (s : State) : (nextOp s).2.cfg = s.cfg := nextOp_frame s .cfg (by simp)
@[simp] theorem nextOp_status (s : State) : (nextOp s).2.status = s.status := nextOp_frame s .status (by simp)
@[simp] theorem nextOp_DT (s : State) : (nextOp s).2.DT = s.DT := nextOp_frame s .DT (by simp)
@[simp] theorem nextOp_ST (s : State) : (nextOp s).2.ST = s.ST := nextOp_frame s .ST (by simp)
@[simp] theorem nextOp_diag (s : State) : (nextOp s).2.diag = s.diag := nextOp_frame s .diag (by simp)

@[simp] theorem nextOp_mem (s : State) : (nextOp s).2.mem = s.mem := by
  obtain ⟨ops, draws, h⟩ := nextOp_snd s
  rw [h]

@[simp] theorem nextOp_wordAt (s : State) (a : Nat) : (nextOp s).2.wordAt a = s.wordAt a := by
  simp [State.wordAt, State.byteAt]

/-- The schedule loses its first operation, if it has one (R222). -/
theorem nextOp_ops (s : State) : (nextOp s).2.ops = s.ops.tail := by
  rcases nextOp_cases s with ⟨ho, h⟩ | ⟨_, _, rest, ho, h⟩ | ⟨rest, ho, h⟩ | ⟨rest, ho, h⟩ <;> rw [h]
  · simp [ho]
  · simp [ho]
  · simp [ho]
  · simp [ho]

/-- No operation is issued only where the schedule is empty (R241). -/
theorem ops_of_idle {s : State} (hop : (nextOp s).1 = .idle) : s.ops = [] := by
  rcases nextOp_cases s with ⟨ho, -⟩ | ⟨_, _, _, -, h⟩ | ⟨_, -, h⟩ | ⟨_, -, h⟩
  · exact ho
  all_goals rw [h] at hop; cases hop

/-! ### what an issued operation is -/

/-- In Running, an issued Step is `runStep` with its inputs. -/
theorem step_of_step {s : State} {keys : BitVec 16} {rnd : Byte} (hs : s.status = .running)
    (hop : (nextOp s).1 = .step keys rnd) : step s = runStep keys rnd (nextOp s).2 := by
  rw [step_running hs, hop]

/-- With no operation issued a running state stays as it is (R241). -/
theorem step_of_idle {s : State} (hs : s.status = .running) (hop : (nextOp s).1 = .idle) : step s = .next s := by
  rw [step_running hs, nextOp_nil (ops_of_idle hop)]

/-- In Running, an issued Tick is `tick`. -/
theorem step_of_tick {s : State} (hs : s.status = .running) (hop : (nextOp s).1 = .tick) :
    step s = .next (tick (nextOp s).2) := by
  rw [step_running hs, hop]

/-- A Step of a word that is read whole and decodes runs the instruction (R101). -/
theorem step_of_decode_ok {s : State} {keys : BitVec 16} {rnd : Byte} {i : Instr} (hs : s.status = .running)
    (hop : (nextOp s).1 = .step keys rnd) (hpc : s.PC + 1 < s.cfg.memSize) (hd : decode (s.wordAt s.PC) = .ok i) :
    step s = retired (exec i (fetched keys rnd (nextOp s).2)) := by
  rw [step_of_step hs hop]
  rcases runStep_cases keys rnd (nextOp s).2 with ⟨h, -⟩ | ⟨-, j, hj, hr⟩ | ⟨-, c, hc, -⟩ <;>
    simp only [nextOp_PC, nextOp_cfg, nextOp_wordAt] at *
  · omega
  · cases hd.symm.trans hj
    exact hr
  · cases hd.symm.trans hc

/-- A Step of an unknown word reports it (R232). -/
theorem step_of_decode_error {s : State} {keys : BitVec 16} {rnd : Byte} {c : UnknownClass} (hs : s.status = .running)
    (hop : (nextOp s).1 = .step keys rnd) (hpc : s.PC + 1 < s.cfg.memSize)
    (hd : decode (s.wordAt s.PC) = .error c) :
    step s = .next ((fetched keys rnd (nextOp s).2).report (.unknownOpcode s.PC (s.wordAt s.PC))).retire := by
  rw [step_of_step hs hop]
  rcases runStep_cases keys rnd (nextOp s).2 with ⟨h, -⟩ | ⟨-, j, hj, -⟩ | ⟨-, c, -, hr⟩ <;>
    simp only [nextOp_PC, nextOp_cfg, nextOp_wordAt] at *
  · omega
  · cases hd.symm.trans hj
  · exact hr

/-- A Step whose word is not whole in memory raises FETCH_OOB (R100, R227). -/
theorem step_of_fetch_error {s : State} {keys : BitVec 16} {rnd : Byte} (hs : s.status = .running)
    (hop : (nextOp s).1 = .step keys rnd) (hpc : s.cfg.memSize ≤ s.PC + 1) :
    step s = .next (raise (.fetchOob (fetchFaultAddr s)) (beginStep keys rnd (nextOp s).2)).retire := by
  rw [step_of_step hs hop]
  rcases runStep_cases keys rnd (nextOp s).2 with ⟨-, hr⟩ | ⟨h, -⟩ | ⟨h, -⟩ <;>
    simp only [nextOp_PC, nextOp_cfg, fetchFaultAddr] at *
  · exact hr
  · omega
  · omega

/-! ### what a step is -/

/-- The five things one step of a running state is. -/
inductive Performs (s : State) : State → Prop
  | idle (hop : (nextOp s).1 = .idle) : Performs s s
  | tick (hop : (nextOp s).1 = .tick) : Performs s (tick (nextOp s).2)
  | fetchFault {keys : BitVec 16} {rnd : Byte} (hop : (nextOp s).1 = .step keys rnd)
      (hpc : s.cfg.memSize ≤ s.PC + 1) :
      Performs s (raise (.fetchOob (fetchFaultAddr s)) (beginStep keys rnd (nextOp s).2)).retire
  | executes {keys : BitVec 16} {rnd : Byte} {i : Instr} {u : State} (hop : (nextOp s).1 = .step keys rnd)
      (hpc : s.PC + 1 < s.cfg.memSize) (hd : decode (s.wordAt s.PC) = .ok i)
      (hu : exec i (fetched keys rnd (nextOp s).2) = .next u) : Performs s u.retire
  | unknown {keys : BitVec 16} {rnd : Byte} {c : UnknownClass} (hop : (nextOp s).1 = .step keys rnd)
      (hpc : s.PC + 1 < s.cfg.memSize) (hd : decode (s.wordAt s.PC) = .error c) :
      Performs s ((fetched keys rnd (nextOp s).2).report (.unknownOpcode s.PC (s.wordAt s.PC))).retire

/-- In Running a step answers a next state, which is one of the five (R101, R222, R241). -/
theorem step_performs {s : State} (hs : s.status = .running) : ∃ t, step s = .next t ∧ Performs s t := by
  cases hop : (nextOp s).1 with
  | idle => exact ⟨s, step_of_idle hs hop, .idle hop⟩
  | tick => exact ⟨_, step_of_tick hs hop, .tick hop⟩
  | step keys rnd =>
    rcases lt_or_ge (s.PC + 1) s.cfg.memSize with hpc | hpc
    · cases hd : decode (s.wordAt s.PC) with
      | ok i =>
        obtain ⟨u, hu⟩ := exec_next i (fetched keys rnd (nextOp s).2)
        exact ⟨u.retire, by rw [step_of_decode_ok hs hop hpc hd, hu, retired], .executes hop hpc hd hu⟩
      | error c => exact ⟨_, step_of_decode_error hs hop hpc hd, .unknown hop hpc hd⟩
    · exact ⟨_, step_of_fetch_error hs hop hpc, .fetchFault hop hpc⟩

/-- Only a running state steps, and its step is one of the five. -/
theorem performs_of_step {s t : State} (h : step s = .next t) : s.status = .running ∧ Performs s t := by
  have hs := (step_cases h).1
  obtain ⟨u, hu, hp⟩ := step_performs hs
  cases h.symm.trans hu
  exact ⟨hs, hp⟩

/-! ### frames of a Step -/

theorem beginStep_frame (keys : BitVec 16) (rnd : Byte) (s : State) : UnchangedBut [.cur] s (beginStep keys rnd s) := by
  intro c hc
  cases c <;> simp_all [Component.agree]

theorem tick_frame (s : State) : UnchangedBut [.DT, .ST] s (tick s) :=
  ((setDT_frame s _).mono (by simp)).trans ((setST_frame _ _).mono (by simp))

/-- The state an instruction of this Step runs in differs from that before it in the PC, the schedule and the latch. -/
theorem fetched_nextOp_frame (keys : BitVec 16) (rnd : Byte) (s : State) :
    UnchangedBut [.PC, .host, .cur] s (fetched keys rnd (nextOp s).2) :=
  ((nextOp_frame s).mono (by simp)).trans ((fetched_frame keys rnd _).mono (by simp))

/-- The fault entry of a fetch changes nothing but the status, since the PC is restored to what the fetch found
(R226). -/
theorem fetchFault_frame (c : FaultCause) (keys : BitVec 16) (rnd : Byte) (s : State) :
    UnchangedBut [.status, .host, .cur] s (raise c (beginStep keys rnd (nextOp s).2)).retire := by
  have hframe : UnchangedBut [.PC, .status, .host, .cur] s (raise c (beginStep keys rnd (nextOp s).2)).retire :=
    ((((nextOp_frame s).mono (by simp)).trans ((beginStep_frame keys rnd _).mono (by simp))).trans
      ((raise_frame _ _).mono (by simp))).trans ((retire_frame _).mono (by simp))
  exact hframe.of_agree (nextOp_PC s)

/-- The fault entry of an instruction changes nothing but the status, since the PC is restored to the instruction's
address (R226). -/
theorem executeFault_frame (c : FaultCause) (keys : BitVec 16) (rnd : Byte) (s : State) :
    UnchangedBut [.status, .host, .cur] s (raise c (fetched keys rnd (nextOp s).2)).retire := by
  have hframe : UnchangedBut [.PC, .status, .host, .cur] s (raise c (fetched keys rnd (nextOp s).2)).retire :=
    (((fetched_nextOp_frame keys rnd s).mono (by simp)).trans ((raise_frame _ _).mono (by simp))).trans
      ((retire_frame _).mono (by simp))
  exact hframe.of_agree (nextOp_PC s)

/-- Every step takes the first operation, if there is one, off the schedule (log 7). -/
theorem Performs.ops {s t : State} (h : Performs s t) : t.ops = s.ops.tail := by
  cases h with
  | idle hop => simp [ops_of_idle hop]
  | tick hop => exact nextOp_ops s
  | fetchFault hop hpc => exact nextOp_ops s
  | executes hop hpc hd hu => exact ((exec_frame_fixed hu .host (by simp)).1).trans (nextOp_ops s)
  | unknown hop hpc hd => exact nextOp_ops s

/-- No step changes the configuration (R33). -/
theorem Performs.cfg {s t : State} (h : Performs s t) : t.cfg = s.cfg := by
  cases h with
  | idle hop => rfl
  | tick hop => exact nextOp_cfg s
  | fetchFault hop hpc => exact nextOp_cfg s
  | executes hop hpc hd hu => exact (exec_frame_fixed hu .cfg (by simp)).trans (nextOp_cfg s)
  | unknown hop hpc hd => exact nextOp_cfg s

/-- A step writes DT by a Tick, or by the FX15 it runs, and by nothing else (R254). -/
theorem Performs.DT {s t : State} (h : Performs s t) :
    (∃ x keys rnd, decode (s.wordAt s.PC) = .ok (.ldDtVx x) ∧ (nextOp s).1 = .step keys rnd) ∨
    ((nextOp s).1 = .tick ∧ t.DT = countDown s.DT) ∨ t.DT = s.DT := by
  cases h with
  | idle hop => exact .inr (.inr rfl)
  | tick hop => exact .inr (.inl ⟨hop, by simp⟩)
  | fetchFault hop hpc => exact .inr (.inr (nextOp_DT s))
  | @executes keys rnd i u hop hpc hd hu =>
    by_cases hDT : u.DT = (fetched keys rnd (nextOp s).2).DT
    · exact .inr (.inr (hDT.trans (nextOp_DT s)))
    · obtain ⟨x, rfl⟩ := DT_mem_writes (mem_writes_of_not_agree hu (c := .DT) (by decide) hDT)
      exact .inl ⟨x, keys, rnd, hd, hop⟩
  | unknown hop hpc hd => exact .inr (.inr (nextOp_DT s))

theorem toNat_countDown (b : Byte) : (countDown b).toNat = b.toNat - 1 := by
  have := b.isLt
  unfold countDown
  split
  · exact toNat_ofNat_of_lt (by omega)
  · omega

/-! ### the statements -/

/-- Settles O11: from Running the status changes by the fetch's fault entry or the instruction's alone, and both come
before any write, with the instruction's address in the latch. -/
theorem faultIsPrecise : Obligations.FaultIsPrecise := by
  intro s t r h hfault
  obtain ⟨hs, hp⟩ := performs_of_step h
  cases hp with
  | idle hop => cases hs.symm.trans hfault
  | tick hop => cases (hs.symm.trans (nextOp_status s).symm).trans hfault
  | @fetchFault keys rnd hop hpc =>
    cases hfault
    exact ⟨fetchFault_frame _ keys rnd s, nextOp_PC s, fun _ => rfl, fun hne => absurd rfl (hne _)⟩
  | @executes keys rnd i u hop hpc hd hu =>
    have hrun : (fetched keys rnd (nextOp s).2).status = .running := (nextOp_status s).trans hs
    rcases exec_next_cases hu with ⟨c, hc, rfl⟩ | hcompl
    · cases hfault
      refine ⟨executeFault_frame c keys rnd s, nextOp_PC s, fun ⟨a, ha⟩ => absurd ha (hc a), fun _ => ?_⟩
      simp [fetched]
    · cases (hcompl.status.trans hrun).symm.trans hfault
  | unknown hop hpc hd => cases (hs.symm.trans (nextOp_status s).symm).trans hfault

/-- Settles O7: the Step's fetch, one report and the idle latch, each with its frame. -/
theorem unknownWordIsReportedAndSkipped : Obligations.UnknownWordIsReportedAndSkipped := by
  intro s keys rnd c hs hop hpc hd
  refine ⟨_, step_of_decode_error hs hop hpc hd, by simp [fetched], by simp [fetched], rfl, ?_⟩
  exact (((fetched_nextOp_frame keys rnd s).mono (by simp)).trans ((report_frame _ _).mono (by simp))).trans
    ((retire_frame _).mono (by simp))

/-- Settles O10: no operation, a Tick, and each of the three outcomes of a Step answer a next state. -/
theorem runningStateAlwaysSteps : Obligations.RunningStateAlwaysSteps := by
  intro s hs
  obtain ⟨t, ht, -⟩ := step_performs hs
  exact ⟨t, ht⟩

/-- Settles O20: a Tick counts DT down by one at most, and otherwise only FX15 writes it. -/
theorem delayTimerFallsOnlyByTicks : Obligations.DelayTimerFallsOnlyByTicks := by
  intro s t h
  rcases (performs_of_step h).2.DT with hwrite | ⟨htick, hDT⟩ | hDT
  · exact .inl hwrite
  · have hfall : t.DT.toNat = s.DT.toNat - 1 := hDT ▸ toNat_countDown s.DT
    exact .inr ⟨by omega, by omega, fun _ => htick⟩
  · exact .inr ⟨by rw [hDT], by rw [hDT]; omega, fun hne => absurd hDT hne⟩

/-- Settles O23: the configuration, the schedule and the latch are in the frame of every instruction. -/
theorem configurationAndInputsAreFixed : Obligations.ConfigurationAndInputsAreFixed := by
  refine ⟨fun s t h => (performs_of_step h).2.cfg, fun i s t h => ?_⟩
  have hframe := exec_frame_fixed h
  obtain ⟨hops, hdraws⟩ := hframe .host (by simp)
  exact ⟨hframe .cfg (by simp), hops, hdraws, hframe .cur (by simp)⟩

/-- Settles O56: with no operation issued `nextOp` answers `idle`, and every step leaves the tail of the schedule. -/
theorem stateStaysWhileNoOperationIsIssued : Obligations.StateStaysWhileNoOperationIsIssued := by
  refine ⟨fun s hs ho => step_of_idle hs (by rw [nextOp_nil ho]), fun s op rest hs ho => ?_⟩
  obtain ⟨t, ht, hp⟩ := step_performs hs
  exact ⟨t, ht, hp.ops.trans (by rw [ho, List.tail_cons])⟩

/-- Settles O6: both kinds of issued Step run the decoded instruction with the inputs `nextOp` gives them. -/
theorem stepRunsTheDecodedInstruction : Obligations.StepRunsTheDecodedInstruction := by
  refine fun s i hs hpc hd => ⟨fun keys rnd rest ho => step_of_decode hs ho hpc hd, fun rest ho => ?_⟩
  have hnext := nextOp_stepAny ho
  rw [step_of_decode_ok hs (by rw [hnext]) hpc hd, hnext]
  rfl

/-- Settles O8: the fetch's fault entry restores the PC it found. -/
theorem fetchOutOfBoundsFaults : Obligations.FetchOutOfBoundsFaults := by
  intro s keys rnd hs hop hpc
  exact ⟨_, step_of_fetch_error hs hop hpc, by simp [fetchFaultAddr], rfl, fetchFault_frame _ keys rnd s⟩

/-- Settles O9: `step` tests the status first. -/
theorem faultedStateHasNoTransition : Obligations.FaultedStateHasNoTransition := by
  intro s r h
  rw [step, h]

/-- Settles O19: a Tick counts each timer down once, and writes nothing else. -/
theorem tickCountsBothTimersDown : Obligations.TickCountsBothTimersDown := by
  intro s rest hs ho
  have hstep : step s = .next (tick { s with ops := rest }) := by
    have hnext := nextOp_tick ho
    rw [step_of_tick hs (by rw [hnext]), hnext]
  have hissue : UnchangedBut [.host] s { s with ops := rest } := by simpa [nextOp_tick ho] using nextOp_frame s
  exact ⟨_, hstep, toNat_countDown s.DT, toNat_countDown s.ST, rfl, rfl,
    (hissue.mono (by simp)).trans ((tick_frame _).mono (by simp))⟩

end Sys2Proof.Machine
end

section
/-! SUPPORT. The invariant (10_state.md R28, 20_memory.md R50): what an instruction does to the PC, the stack and the
log, that it keeps the invariant, and that Construct meets it; and the statements that follow. -/

namespace Sys2Proof.Machine

open Sys2Proof.Claims

/-! ### the state an instruction runs in -/

/-- What holds of a state between the fetch and the end of a Step that began with the invariant. -/
structure InExecute (s : State) : Prop where
  config : s.cfg.wf = true
  memory : s.mem.wf
  bounds : s.mem.within s.cfg.memSize
  pc : s.PC ≤ s.cfg.memSize
  origin : s.cur.pc0 ≤ s.cfg.memSize
  returns : ∀ a ∈ s.S, a ≤ s.cfg.memSize
  depth : ∀ k, s.cfg.stackCapacity = some k → s.S.length ≤ k
  running : s.status = .running
  log : ∀ e ∈ s.diag, e.truthful

/-- The invariant reads neither the schedule nor the counter of free values. -/
theorem inv_nextOp {s : State} (h : s.Inv) : (nextOp s).2.Inv := by
  obtain ⟨ops, draws, hn⟩ := nextOp_snd s
  rw [hn]
  exact ⟨h.config, h.memory, h.bounds, h.pc, h.returns, h.depth, h.idle, h.fault, h.log⟩

/-- A fetch that finds a whole word leaves a PC of at most MEM_SIZE (R28). -/
theorem inExecute_fetched {s : State} (h : s.Inv) (hs : s.status = .running) (hpc : s.PC + 1 < s.cfg.memSize)
    (keys : BitVec 16) (rnd : Byte) : InExecute (fetched keys rnd s) :=
  ⟨h.config, h.memory, h.bounds, hpc, Nat.le_of_lt (Nat.lt_of_succ_lt hpc), h.returns, h.depth, hs, h.log⟩

/-! ### what an instruction does to memory, the PC, the stack and the log -/

/-- An instruction keeps the canonical form of memory within MEM_SIZE (R50, R162). -/
theorem exec_memory {i : Instr} {s t : State} (h : exec i s = .next t) (hs : InExecute s) :
    t.mem.wf ∧ t.mem.within s.cfg.memSize := by
  rcases exec_next_cases h with ⟨c, -, rfl⟩ | hcompl
  · exact ⟨hs.memory, hs.bounds⟩
  rcases hcompl.memory with hsame | ⟨bytes, hin, hstore⟩
  · rw [hsame]
    exact ⟨hs.memory, hs.bounds⟩
  · rw [hstore]
    exact ⟨Memory.wf_writeBytes hs.memory _ _, Memory.within_writeBytes hs.bounds _ _ hin⟩

/-- The stack stays, loses its last element, or below capacity gets the advanced PC (R31). -/
theorem exec_S_cases {i : Instr} {s t : State} (h : exec i s = .next t) :
    t.S = s.S ∨ (∃ a, s.S = t.S ++ [a]) ∨ (t.S = s.S ++ [s.PC] ∧ s.cfg.stackCapacity ≠ some s.S.length) := by
  by_cases hS : t.S = s.S
  · exact .inl hS
  right
  rcases S_mem_writes (mem_writes_of_not_agree h (c := .S) (by decide) hS) with rfl | ⟨nnn, rfl⟩
  · rcases s.pop_cases with ⟨hnil, -⟩ | ⟨l, a, hl, -⟩
    · cases h.symm.trans (exec_ret_nil hnil)
      exact absurd rfl hS
    · cases h.symm.trans (exec_ret_concat hl)
      exact .inl ⟨a, hl⟩
  · by_cases hfull : s.cfg.stackCapacity = some s.S.length
    · cases h.symm.trans (exec_call_of_eq hfull nnn)
      exact absurd rfl hS
    · cases h.symm.trans (exec_call_of_ne hfull nnn)
      exact .inr ⟨called_S nnn s, hfull⟩

/-- An instruction reports nothing, or one depth above 16 (R234). -/
theorem exec_diag_cases {i : Instr} {s t : State} (h : exec i s = .next t) :
    t.diag = s.diag ∨ ∃ d, 16 < d ∧ t.diag = s.diag ++ [.stackDeep d] := by
  by_cases hdiag : t.diag = s.diag
  · exact .inl hdiag
  obtain ⟨nnn, rfl⟩ := diag_mem_writes (mem_writes_of_not_agree h (c := .diag) (by decide) hdiag)
  by_cases hfull : s.cfg.stackCapacity = some s.S.length
  · cases h.symm.trans (exec_call_of_eq hfull nnn)
    exact absurd rfl hdiag
  · cases h.symm.trans (exec_call_of_ne hfull nnn)
    rw [called_diag] at hdiag ⊢
    split at hdiag
    · exact .inr ⟨_, ‹_›, by rw [if_pos ‹_›]⟩
    · simp at hdiag

theorem skipIf_PC_le (s : State) (c : Bool) : (s.skipIf c).PC ≤ s.PC + 2 := by
  cases c <;> simp

theorem skipOnKey_PC_le {x : Reg} {wanted : Bool} {s t : State} (h : skipOnKey x wanted s = .next t)
    (hs : InExecute s) : t.PC ≤ s.cfg.memSize + 2 := by
  have hpc := hs.pc
  have horigin := hs.origin
  rcases skipOnKey_cases x wanted s with ⟨-, hout⟩ | ⟨-, hskip⟩
  · cases h.symm.trans hout
    rw [raise_PC]
    omega
  · cases h.symm.trans hskip
    exact (skipIf_PC_le s _).trans (by omega)

/-- The bound of R28: a jump goes to NNN or to NNN + V0, a return to an address on the stack, a skip two bytes on. -/
theorem exec_PC_le {i : Instr} {s t : State} (h : exec i s = .next t) (hi : i.wf = true) (hs : InExecute s) :
    t.PC ≤ max 0x10FE (s.cfg.memSize + 2) := by
  have hpc := hs.pc
  have horigin := hs.origin
  have hraise (c : FaultCause) : (raise c s).PC ≤ max 0x10FE (s.cfg.memSize + 2) := by
    rw [raise_PC]
    omega
  by_cases hflow : .PC ∈ writes s.cfg i
  case neg =>
    rcases exec_next_cases h with ⟨c, -, rfl⟩ | hcompl
    · exact hraise c
    · have hstay : t.PC = s.PC := hcompl.frame .PC hflow
      omega
  cases i with
  | ret =>
    rcases s.pop_cases with ⟨hnil, -⟩ | ⟨l, a, hl, -⟩
    · cases h.symm.trans (exec_ret_nil hnil)
      exact hraise _
    · cases h.symm.trans (exec_ret_concat hl)
      have hreturn : a ≤ s.cfg.memSize := hs.returns a (by simp [hl])
      rw [State.setPC_PC]
      omega
  | jp nnn =>
    cases h
    have hnnn : nnn < 0x1000 := of_decide_eq_true hi
    rw [State.setPC_PC]
    omega
  | call nnn =>
    have hnnn : nnn < 0x1000 := of_decide_eq_true hi
    by_cases hfull : s.cfg.stackCapacity = some s.S.length
    · cases h.symm.trans (exec_call_of_eq hfull nnn)
      exact hraise _
    · cases h.symm.trans (exec_call_of_ne hfull nnn)
      rw [called_PC]
      omega
  | jpV0Nnn nnn =>
    cases h
    have hnnn : nnn < 0x1000 := of_decide_eq_true hi
    have hV0 := (s.getV 0).isLt
    rw [State.setPC_PC]
    omega
  | seVxNn _ _ | sneVxNn _ _ | seVxVy _ _ | sneVxVy _ _ =>
    cases h
    exact (skipIf_PC_le s _).trans (by omega)
  | skp _ | sknp _ => exact (skipOnKey_PC_le h hs).trans (by omega)
  | _ => simp [writes] at hflow

theorem exec_returns {i : Instr} {s t : State} (h : exec i s = .next t) (hs : InExecute s) :
    ∀ a ∈ t.S, a ≤ s.cfg.memSize := by
  intro a ha
  rcases exec_S_cases h with hsame | ⟨b, hpop⟩ | ⟨hpush, -⟩
  · exact hs.returns a (hsame ▸ ha)
  · exact hs.returns a (hpop ▸ List.mem_append_left _ ha)
  · rcases List.mem_append.1 (hpush ▸ ha) with hmem | hmem
    · exact hs.returns a hmem
    · exact List.mem_singleton.1 hmem ▸ hs.pc

theorem exec_depth {i : Instr} {s t : State} (h : exec i s = .next t) (hs : InExecute s) {k : Nat}
    (hk : s.cfg.stackCapacity = some k) : t.S.length ≤ k := by
  have hdepth := hs.depth k hk
  rcases exec_S_cases h with hsame | ⟨b, hpop⟩ | ⟨hpush, hroom⟩
  · rwa [hsame]
  · simp only [hpop, List.length_append, List.length_singleton] at hdepth
    omega
  · have hne : s.S.length ≠ k := fun he => hroom (he ▸ hk)
    simp only [hpush, List.length_append, List.length_singleton]
    omega

theorem exec_log {i : Instr} {s t : State} (h : exec i s = .next t) (hs : InExecute s) :
    ∀ e ∈ t.diag, e.truthful := by
  rcases exec_diag_cases h with hsame | ⟨d, hd, hreport⟩
  · rw [hsame]
    exact hs.log
  · rw [hreport, List.forall_mem_append, List.forall_mem_singleton]
    exact ⟨hs.log, hd⟩

/-- A fault an instruction enters records the address the PC is set back to (R226). -/
theorem exec_fault {i : Instr} {s t : State} (h : exec i s = .next t) (hs : InExecute s) {r : FaultRecord}
    (hr : t.status = .faulted r) : r.pc = t.PC := by
  rcases exec_next_cases h with ⟨c, -, rfl⟩ | hcompl
  · cases hr
    rfl
  · cases (hcompl.status.trans hs.running).symm.trans hr

/-! ### the invariant is kept -/

/-- The execute phase of a well-formed instruction ends, once the latch is idle, in the invariant. -/
theorem exec_keeps_inv {i : Instr} {s t : State} (h : exec i s = .next t) (hi : i.wf = true) (hs : InExecute s) :
    t.retire.Inv := by
  have hcfg : t.cfg = s.cfg := exec_frame_fixed h .cfg (by simp)
  obtain ⟨hwf, hwithin⟩ := exec_memory h hs
  have hpc := exec_PC_le h hi hs
  have hreturns := exec_returns h hs
  have hdepth {k : Nat} := exec_depth h hs (k := k)
  rw [← hcfg] at hwithin hpc hreturns hdepth
  exact ⟨(congrArg Config.wf hcfg).trans hs.config, hwf, hwithin, hpc, hreturns, fun k => hdepth, rfl,
    fun r => exec_fault h hs, exec_log (t := t) h hs⟩

/-- A fault of the fetch keeps the PC, which its record names (R226). -/
theorem fetchFault_keeps_inv {s : State} (h : s.Inv) (c : FaultCause) (keys : BitVec 16) (rnd : Byte) :
    (raise c (beginStep keys rnd s)).retire.Inv :=
  ⟨h.config, h.memory, h.bounds, h.pc, h.returns, h.depth, rfl, fun r hr => by cases hr; rfl, h.log⟩

/-- An unknown word is skipped, and the event that reports it is true (R232). -/
theorem unknown_keeps_inv {s : State} {c : UnknownClass} {w : Word} {pc : Nat} (hs : InExecute s)
    (hd : decode w = .error c) : (s.report (.unknownOpcode pc w)).retire.Inv := by
  have hpc := hs.pc
  refine ⟨hs.config, hs.memory, hs.bounds, ?_, hs.returns, hs.depth, rfl, ?_, ?_⟩
  · simp only [State.retire_PC, State.report_PC, State.retire_cfg, State.report_cfg]
    omega
  · intro r hr
    cases hs.running.symm.trans hr
  · rw [State.retire_diag, State.report_diag, List.forall_mem_append, List.forall_mem_singleton]
    exact ⟨hs.log, c, hd⟩

theorem tick_keeps_inv {s : State} (h : s.Inv) : (tick s).Inv :=
  ⟨h.config, h.memory, h.bounds, h.pc, h.returns, h.depth, h.idle, h.fault, h.log⟩

/-! ### Construct -/

theorem Memory.ofImage_cons (base : Nat) (b : Byte) (rom : List Byte) :
    Memory.ofImage base (b :: rom) =
      if b = Memory.unlisted then Memory.ofImage (base + 1) rom else (base, b) :: Memory.ofImage (base + 1) rom := by
  simp only [Memory.ofImage, List.zipIdx_cons, List.map_cons, List.filter_cons]
  split <;> simp_all

/-- Below its base an image laid out lists nothing. -/
theorem Memory.read_ofImage_of_lt {base a : Nat} (h : a < base) (rom : List Byte) :
    (Memory.ofImage base rom).read a = Memory.unlisted := by
  induction rom generalizing base with
  | nil => rfl
  | cons b rom ih =>
    have hrest := ih (base := base + 1) (by omega)
    rw [Memory.ofImage_cons]
    split
    · exact hrest
    · exact (if_neg (Nat.ne_of_gt h)).trans hrest

/-- The first byte of an image stands at its base, and the others follow. -/
theorem Memory.read_ofImage_cons (base : Nat) (b : Byte) (rom : List Byte) (a : Nat) :
    (Memory.ofImage base (b :: rom)).read a = if a = base then b else (Memory.ofImage (base + 1) rom).read a := by
  rw [Memory.ofImage_cons]
  by_cases hb : b = Memory.unlisted
  · rw [if_pos hb]
    split
    · rw [hb, Memory.read_ofImage_of_lt (by omega)]
    · rfl
  · rw [if_neg hb]
    exact if_congr eq_comm rfl rfl

/-- An image laid out reads as its bytes from its base on, and as unlisted elsewhere (R250). -/
theorem Memory.read_ofImage (base : Nat) (rom : List Byte) (a : Nat) :
    (Memory.ofImage base rom).read a =
      if base ≤ a ∧ a < base + rom.length then rom.getD (a - base) 0 else Memory.unlisted := by
  induction rom generalizing base with
  | nil =>
    have hempty : ¬(base ≤ a ∧ a < base + ([] : List Byte).length) := by simp
    rw [if_neg hempty]
    rfl
  | cons b rom ih =>
    rw [Memory.read_ofImage_cons, ih (base + 1), List.length_cons]
    by_cases ha : a = base
    · subst ha
      simp
    rcases Nat.lt_or_ge a (base + 1) with hlt | hge
    · rw [if_neg ha, if_neg (by omega), if_neg (by omega)]
    · obtain ⟨d, rfl⟩ := Nat.exists_eq_add_of_le hge
      have hrest : base + 1 + d - base = d + 1 := by omega
      rw [if_neg ha, Nat.add_sub_cancel_left, hrest, List.getD_cons_succ]
      exact if_congr (by omega) rfl rfl

/-- An image laid out lists no address past its end. -/
theorem Memory.within_ofImage {base size : Nat} {rom : List Byte} (h : base + rom.length ≤ size) :
    (Memory.ofImage base rom).within size := by
  induction rom generalizing base with
  | nil => simp [Memory.ofImage]
  | cons b rom ih =>
    rw [List.length_cons] at h
    have hrest := ih (base := base + 1) (by omega)
    rw [Memory.ofImage_cons]
    split
    · exact hrest
    · exact List.forall_mem_cons.2 ⟨by show base < size; omega, hrest⟩

/-- An image that fits ends within MEM_SIZE (R6, R251). -/
theorem image_le_of_fits {cfg : Config} {rom : List Byte} (hwf : cfg.wf = true) (h : cfg.imageFits rom = true) :
    progBase + rom.length ≤ cfg.memSize := by
  have hfits : rom.length ≤ cfg.memSize - progBase := of_decide_eq_true h
  have hmin : 0x202 ≤ cfg.memSize := of_decide_eq_true (Bool.and_eq_true_iff.1 hwf).1
  unfold progBase at *
  omega

/-! ### the statements -/

/-- Settles O12: the fetch leaves what an instruction needs, and each of the five things a step is keeps the
invariant. -/
theorem stepKeepsInvariant : Obligations.StepKeepsInvariant := by
  intro s t hinv h
  obtain ⟨hs, hp⟩ := performs_of_step h
  have hissued := inv_nextOp hinv
  have hrun : (nextOp s).2.status = .running := (nextOp_status s).trans hs
  cases hp with
  | idle hop => exact hinv
  | tick hop => exact tick_keeps_inv hissued
  | fetchFault hop hpc => exact fetchFault_keeps_inv hissued _ _ _
  | @executes keys rnd i u hop hpc hd hu =>
    exact exec_keeps_inv hu (decode_wf hd) (inExecute_fetched hissued hrun (by simpa using hpc) keys rnd)
  | @unknown keys rnd c hop hpc hd =>
    exact unknown_keeps_inv (inExecute_fetched hissued hrun (by simpa using hpc) keys rnd) hd

/-- Settles O16: the image is laid out in canonical form below MEM_SIZE, and the rest is at its reset value. -/
theorem constructMeetsInvariant : Obligations.ConstructMeetsInvariant := by
  intro cfg rom s hwf h
  unfold construct at h
  split at h <;> cases h
  exact ⟨hwf, Memory.wf_ofImage _ _, Memory.within_ofImage (image_le_of_fits hwf ‹_›),
    (by decide : progBase ≤ 0x10FE).trans (Nat.le_max_left _ _), by simp [State.reset], by simp [State.reset], rfl,
    by simp [State.reset], by simp [State.reset]⟩

/-- Settles O13: the reset state is Construct of the empty image at the default parameters. -/
theorem resetMeetsInvariant : Obligations.ResetMeetsInvariant :=
  constructMeetsInvariant {} [] State.reset (by decide) rfl

/-- Settles O14: the values `State.reset` is written with. -/
theorem resetValues : Obligations.ResetValues :=
  ⟨fun r => by simp [State.reset, State.getV], rfl, rfl, rfl, rfl, rfl, fun _ => rfl, pixelOn_clearScreen, rfl, rfl⟩

/-- Settles O15: the check of the image's length decides, and the bytes are those of `Memory.read_ofImage`. -/
theorem constructPlacesTheImage : Obligations.ConstructPlacesTheImage := by
  refine fun cfg rom hwf => ⟨fun hfits => ?_, fun hlong => ?_⟩
  · refine ⟨_, if_pos (decide_eq_true hfits), rfl, fun a => Memory.read_ofImage progBase rom a, ?_⟩
    intro c hc
    cases c <;> simp_all [Component.agree, State.getV]
  · exact if_neg fun hfits => absurd (of_decide_eq_true hfits) (Nat.not_le.2 hlong)

end Sys2Proof.Machine
end

section
/-! SUPPORT. The log and the sound timer influence nothing but themselves (10_state.md R32, R37, 60_exceptions.md R233):
two runs that differ in them alone stay so; and the statements that follow. -/

namespace Sys2Proof.Machine

/-! ### another log and another sound timer -/

/-- The state with another diagnostic log and another sound timer. -/
def State.withLogST (d : List DiagEvent) (b : Byte) (s : State) : State := { s with diag := d, ST := b }

/-- The next state of an answer, changed; a stop stays as it is. -/
def mapNext (g : State → State) : Result → Result
  | .next s => .next (g s)
  | .fault r => .fault r
  | .refused r => .refused r

/-- An operation reports at most one event, and neither what the log held nor the sound timer changes anything but the
log and the sound timer. -/
def IgnoresLogST (f : State → Result) : Prop :=
  ∀ (s t : State) (d : List DiagEvent) (b : Byte), f s = .next t →
    ∃ (es : List DiagEvent) (b' : Byte), es.length ≤ 1 ∧ t.diag = s.diag ++ es ∧ (b = s.ST → b' = t.ST) ∧
      f (s.withLogST d b) = .next (t.withLogST (d ++ es) b')

/-! ### the shared operations -/

section
variable (s : State) (d : List DiagEvent) (b : Byte)

theorem skipIf_withLogST (c : Bool) : (s.withLogST d b).skipIf c = (s.skipIf c).withLogST d b :=
  (apply_ite (State.withLogST d b) (c = true) s.skip s).symm

theorem setLogicResult_withLogST (x : Reg) (v : Byte) :
    (s.withLogST d b).setLogicResult x v = (s.setLogicResult x v).withLogST d b :=
  (apply_ite (State.withLogST d b) (s.cfg.qLogicVfReset = true) ((s.setV x v).setV regF 0) (s.setV x v)).symm

theorem bumpI_withLogST (x : Reg) : State.bumpI x (s.withLogST d b) = (State.bumpI x s).withLogST d b :=
  (apply_ite (State.withLogST d b) (s.cfg.qMemIncrI = true) (s.setI (s.indexPlus (x.val + 1))) s).symm

theorem skipOnKey_withLogST (x : Reg) (wanted : Bool) :
    skipOnKey x wanted (s.withLogST d b) = mapNext (State.withLogST d b) (skipOnKey x wanted s) := by
  rcases Nat.lt_or_ge 15 (s.getV x).toNat with h | h
  · rw [skipOnKey_of_lt h, skipOnKey_of_lt (s := s.withLogST d b) h]
    rfl
  · rw [skipOnKey_of_le h, skipOnKey_of_le (s := s.withLogST d b) h, mapNext, ← skipIf_withLogST]
    rfl

theorem storeAtI_withLogST (bytes : List Byte) (after : State → State)
    (hafter : ∀ u : State, after (u.withLogST d b) = (after u).withLogST d b) :
    storeAtI bytes (s.withLogST d b) after = mapNext (State.withLogST d b) (storeAtI bytes s after) := by
  have hwrite := hafter (s.setMem (s.mem.writeBytes s.I.toNat bytes))
  have hcheck : rangeFault (s.withLogST d b).cfg.memSize (s.withLogST d b).I.toNat bytes.length =
      rangeFault s.cfg.memSize s.I.toNat bytes.length := rfl
  rw [storeAtI, storeAtI, hcheck]
  cases rangeFault s.cfg.memSize s.I.toNat bytes.length with
  | none => exact congrArg _ hwrite
  | some a => rfl

theorem called_withLogST (nnn : Nat) :
    called nnn (s.withLogST d b) =
      (called nnn s).withLogST (d ++ if 16 < s.S.length + 1 then [.stackDeep (s.S.length + 1)] else []) b := by
  by_cases hdeep : 16 < s.S.length + 1 <;>
    simp [called, reportDepth, State.report, State.setPC, State.push, State.withLogST, hdeep]

/-- An instruction that writes neither commutes with another log and another sound timer. -/
theorem exec_withLogST {i : Instr} (hdiag : .diag ∉ writes s.cfg i) (hST : .ST ∉ writes s.cfg i) :
    exec i (s.withLogST d b) = mapNext (State.withLogST d b) (exec i s) := by
  cases i with
  | ret =>
    rcases s.pop_cases with ⟨h, -⟩ | ⟨l, a, h, -⟩
    · rw [exec_ret_nil h, exec_ret_nil (s := s.withLogST d b) h]
      rfl
    · rw [exec_ret_concat h, exec_ret_concat (s := s.withLogST d b) h]
      rfl
  | call _ => simp [writes] at hdiag
  | ldStVx _ => simp [writes] at hST
  | seVxNn _ _ | sneVxNn _ _ | seVxVy _ _ | sneVxVy _ _ => exact congrArg _ (skipIf_withLogST s d b _)
  | skp x => exact skipOnKey_withLogST s d b x true
  | sknp x => exact skipOnKey_withLogST s d b x false
  | or x _ | and x _ | xor x _ => exact congrArg _ (setLogicResult_withLogST s d b x _)
  | drw x y n =>
    by_cases h : n = 0 ∨ s.I.toNat + n ≤ s.cfg.memSize
    · rw [exec_drw_of_fits h, exec_drw_of_fits (s := s.withLogST d b) h]
      rfl
    · have hpos : 0 < n := by omega
      have hout : s.cfg.memSize ≤ s.I.toNat + n - 1 := by omega
      rw [exec_drw_of_le hpos hout, exec_drw_of_le (s := s.withLogST d b) hpos hout]
      rfl
  | ldBVx x => exact storeAtI_withLogST s d b _ id fun _ => rfl
  | ldMemIVx x => exact storeAtI_withLogST s d b _ _ fun u => bumpI_withLogST u d b x
  | ldVxMemI x =>
    rcases lt_or_ge (s.I.toNat + x.val) s.cfg.memSize with h | h
    · rw [exec_ldVxMemI_of_lt h, exec_ldVxMemI_of_lt (s := s.withLogST d b) h, mapNext, ← bumpI_withLogST]
      rfl
    · rw [exec_ldVxMemI_of_le h, exec_ldVxMemI_of_le (s := s.withLogST d b) h]
      rfl
  | _ => rfl

end

theorem called_ST (nnn : Nat) (s : State) : (called nnn s).ST = s.ST := called_frame nnn s .ST (by simp)

/-- CALL tests the stack against its capacity, and only then reports (R104, R234). -/
theorem exec_call_ignoresLogST (nnn : Nat) : IgnoresLogST (exec (.call nnn)) := by
  intro s t d b h
  by_cases hfull : s.cfg.stackCapacity = some s.S.length
  · cases h.symm.trans (exec_call_of_eq hfull nnn)
    refine ⟨[], b, by simp, by simp, fun hb => hb, ?_⟩
    rw [exec_call_of_eq (s := s.withLogST d b) hfull, List.append_nil]
    rfl
  · cases h.symm.trans (exec_call_of_ne hfull nnn)
    refine ⟨if 16 < s.S.length + 1 then [.stackDeep (s.S.length + 1)] else [], b, ?_, called_diag nnn s,
      fun hb => hb.trans (called_ST nnn s).symm, ?_⟩
    · split <;> simp
    · rw [exec_call_of_ne (s := s.withLogST d b) hfull, called_withLogST]

/-- Every instruction ignores the log and the sound timer. -/
theorem exec_ignoresLogST (i : Instr) : IgnoresLogST (exec i) := by
  intro s t d b h
  by_cases hdiag : .diag ∈ writes s.cfg i
  · obtain ⟨nnn, rfl⟩ := diag_mem_writes hdiag
    exact exec_call_ignoresLogST nnn s t d b h
  by_cases hST : .ST ∈ writes s.cfg i
  · obtain ⟨x, rfl⟩ := ST_mem_writes hST
    cases h
    exact ⟨[], s.getV x, by simp, by simp, fun _ => rfl, by rw [List.append_nil]; rfl⟩
  · have hsame := exec_frame h
    have hstay : t.diag = s.diag := hsame .diag (by simpa using hdiag)
    have hsound : t.ST = s.ST := hsame .ST (by simpa using hST)
    refine ⟨[], b, by simp, by simp [hstay], fun hb => hb.trans hsound.symm, ?_⟩
    rw [exec_withLogST s d b hdiag hST, h, mapNext, List.append_nil]

/-! ### one step -/

theorem nextOp_withLogST (s : State) (d : List DiagEvent) (b : Byte) :
    nextOp (s.withLogST d b) = ((nextOp s).1, (nextOp s).2.withLogST d b) := by
  cases ho : s.ops with
  | nil => simp [nextOp, State.withLogST, ho]
  | cons op rest => cases op <;> simp [nextOp, State.withLogST, ho]

theorem nextOp_withLogST_fst (s : State) (d : List DiagEvent) (b : Byte) :
    (nextOp (s.withLogST d b)).1 = (nextOp s).1 := by rw [nextOp_withLogST]

theorem nextOp_withLogST_snd (s : State) (d : List DiagEvent) (b : Byte) :
    (nextOp (s.withLogST d b)).2 = (nextOp s).2.withLogST d b := by rw [nextOp_withLogST]

/-- Every step ignores the log and the sound timer. -/
theorem step_ignoresLogST : IgnoresLogST step := by
  intro s t d b h
  obtain ⟨hs, hp⟩ := performs_of_step h
  have hs' : (s.withLogST d b).status = .running := hs
  have hfst := nextOp_withLogST_fst s d b
  have hsnd := nextOp_withLogST_snd s d b
  cases hp with
  | idle hop =>
    refine ⟨[], b, by simp, by simp, fun hb => hb, ?_⟩
    rw [step_of_idle hs' (hfst.trans hop), List.append_nil]
  | tick hop =>
    refine ⟨[], countDown b, by simp, by simp, fun hb => by simp [hb], ?_⟩
    rw [step_of_tick hs' (hfst.trans hop), hsnd, List.append_nil]
    rfl
  | fetchFault hop hpc =>
    refine ⟨[], b, by simp, by simp, fun hb => by simp [hb], ?_⟩
    rw [step_of_fetch_error hs' (hfst.trans hop) hpc, hsnd, List.append_nil]
    rfl
  | @executes keys rnd i u hop hpc hd hu =>
    obtain ⟨es, b', hlen, hdiag, hsound, hexec⟩ := exec_ignoresLogST i _ u d b hu
    refine ⟨es, b', hlen, hdiag.trans (by simp [fetched]), fun hb => hsound (hb.trans (nextOp_ST s).symm), ?_⟩
    rw [step_of_decode_ok hs' (hfst.trans hop) hpc hd, hsnd]
    exact congrArg retired hexec
  | unknown hop hpc hd =>
    refine ⟨[.unknownOpcode s.PC (s.wordAt s.PC)], b, by simp, by simp [fetched], fun hb => by simp [hb, fetched], ?_⟩
    rw [step_of_decode_error hs' (hfst.trans hop) hpc hd, hsnd]
    rfl

/-! ### the statements -/

/-- Settles O17: the same sound timer, another log. -/
theorem diagnosticsAreWriteOnly : Obligations.DiagnosticsAreWriteOnly := by
  intro s t d h
  obtain ⟨es, b', hlen, hdiag, hsound, hstep⟩ := step_ignoresLogST s t d s.ST h
  obtain rfl := hsound rfl
  exact ⟨es, hlen, hdiag, hstep⟩

/-- Settles O18: the same log, another sound timer. -/
theorem soundTimerIsNeverRead : Obligations.SoundTimerIsNeverRead := by
  intro s t b h
  obtain ⟨es, b', -, hdiag, -, hstep⟩ := step_ignoresLogST s t s.diag b h
  rw [← hdiag] at hstep
  exact ⟨b', hstep⟩

end Sys2Proof.Machine
end
